-- ==== Sys2Proof/Word.lean ====
section
/-! DEFINITION. The word type, the index types and the register names of CSD-ECA (00_scope.md R4, R7; 10_state.md R25). -/

namespace Sys2Proof

/-- A command word or a response word: 32 bits (30_encoding.md R60, R62). -/
abbrev Word := BitVec 32

/-- One byte of a command word's byte image (20_memory.md R48). -/
abbrev Byte := BitVec 8

/-- A scan position 0..15 (10_state.md R10). -/
abbrev Pos := Fin 16

/-- A context bucket 0, 1 or 2 (00_scope.md R4, R8). -/
abbrev Ctx := Fin 3

/-- A clamped level 0..67 (00_scope.md R4). -/
abbrev Level := Fin 68

/-- A band identifier; the encodings' three bits cap it at 7 (00_scope.md R5). -/
abbrev Band := Fin 8

/-- The registers `RDREG` can name (10_state.md R25). -/
inductive Reg where
  | status | first | last | result | fault | finfo | strat | cap | unitId | params
  | coef (i : Pos)
  deriving DecidableEq, Repr

end Sys2Proof
end

