-- ==== Sys2Proof/Config.lean ====
section
/-! DEFINITION. What an implementation fixes (00_scope.md R5, R6) and the free values of the model. -/

namespace Sys2Proof

/-- The configuration record `cfg` (00_scope.md R5, R6; 10_state.md R28): constants of the implementation,
written by nothing. -/
structure Config where
  /-- `MAX_LEVEL`, the largest magnitude `LFC` has an entry for. -/
  maxLevel : Nat
  /-- `NUM_BANDS`. -/
  numBands : Nat
  /-- `N_UNITS`. -/
  nUnits : Nat
  /-- The Band Table, positions 0..16 (20_memory.md R45). -/
  band : Vector Band 17
  /-- The Fixed Level-Cost Table, magnitudes 0..MAX_LEVEL (20_memory.md R45). -/
  lfc : List (BitVec 16)
  /-- Bit cost of "no (further) nonzero coefficient" (20_memory.md R46). -/
  ecostNo : Vector (BitVec 16) 256
  /-- Bit cost of "at least one (further) nonzero coefficient" (20_memory.md R46). -/
  ecostYes : Vector (BitVec 16) 256
  deriving DecidableEq, Repr

/-- The constraints of 00_scope.md R5 and the index ranges of R6. -/
abbrev Config.Ok (c : Config) : Prop :=
  (67 ≤ c.maxLevel ∧ c.maxLevel ≤ 32768) ∧ (1 ≤ c.numBands ∧ c.numBands ≤ 8) ∧
  (1 ≤ c.nUnits ∧ c.nUnits ≤ 255) ∧ (∀ n : Fin 17, (c.band[n]).val < c.numBands) ∧
  c.lfc.length = c.maxLevel + 1

/-- Free value (log 4): the Band Table's contents, which the spec does not give (93 U12). -/
opaque Config.freeBand : Nat → Band
/-- Free value (log 4): the Fixed Level-Cost Table's contents, which the spec does not give (93 U12). -/
opaque Config.freeLfc : Nat → BitVec 16
/-- Free value (log 4): the contents of `ECOST_NO`, which the spec does not give (93 U12). -/
opaque Config.freeEcostNo : Nat → BitVec 16
/-- Free value (log 4): the contents of `ECOST_YES`, which the spec does not give (93 U12). -/
opaque Config.freeEcostYes : Nat → BitVec 16
/-- Free value (log 9): an `LFC` read beyond the table's end, which no configuration meeting `Config.Ok` makes. -/
opaque Config.lfcBeyond : Nat → BitVec 16
/-- Free value (log 5): the level of the input `CAP` at reset, which the spec leaves to the hosting environment. -/
opaque Config.freeCap : Bool
/-- Free value (log 8): which of several waiting units moves next when no event says so (93 U14). -/
opaque Config.arbiter : Nat → Nat

/-- The default parameters of 00_scope.md R5 over table contents that are free. -/
def Config.default : Config where
  maxLevel := 2047
  numBands := 8
  nUnits := 1
  band := ⟨((List.range 17).map Config.freeBand).toArray, by simp⟩
  lfc := (List.range 2048).map Config.freeLfc
  ecostNo := ⟨((List.range 256).map Config.freeEcostNo).toArray, by simp⟩
  ecostYes := ⟨((List.range 256).map Config.freeEcostYes).toArray, by simp⟩

end Sys2Proof
end

