-- ==== Sys2Proof/Syntax.lean ====
section
/-! DEFINITION. The commands of CSD-ECA, one constructor per row of spec/opcode_table.json (30_encoding.md R64). -/

namespace Sys2Proof

/-- A command with its operands as values (30_encoding.md R63). -/
inductive Instr where
  /-- 43_strategy_system.md R130. -/
  | nop
  /-- 43_strategy_system.md R131. -/
  | init
  /-- 40_block_load.md R80. -/
  | clrcoef
  /-- 40_block_load.md R81; `val` holds the coefficient's two's complement bits. -/
  | ldcoef (idx : Pos) (val : BitVec 16)
  /-- 40_block_load.md R82. -/
  | setfirst (first : BitVec 4)
  /-- 41_scan_detector.md R90. -/
  | detlast
  /-- 42_cost_estimator.md R100. -/
  | cost (ctx0 : Ctx)
  /-- 43_strategy_system.md R133. -/
  | rdreg (reg : Reg)
  /-- 44_table_load.md R140. -/
  | ldprob (band : Band) (ctx : Ctx) (val : BitVec 8)
  /-- 44_table_load.md R141. -/
  | ldcostt (band : Band) (ctx : Ctx) (level : Level) (val : BitVec 16)
  deriving DecidableEq, Repr

end Sys2Proof
end

