-- ==== Sys2Proof/WellFormed.lean ====
section
/-! DEFINITION. Which commands are well formed under a given `NUM_BANDS` (30_encoding.md R70, R72). Every other
operand range (position, context, level, register number) is its type's. -/

namespace Sys2Proof

/-- A table load names a band below `NUM_BANDS` (30_encoding.md R70). -/
def Instr.wf (numBands : Nat) : Instr → Bool
  | .nop => true
  | .init => true
  | .clrcoef => true
  | .ldcoef _ _ => true
  | .setfirst _ => true
  | .detlast => true
  | .cost _ => true
  | .rdreg _ => true
  | .ldprob band _ _ => decide (band.val < numBands)
  | .ldcostt band _ _ _ => decide (band.val < numBands)

end Sys2Proof
end

