-- ==== Sys2Proof/Decode.lean ====
section
/-! DEFINITION. The decoder (30_encoding.md R64 to R71), the encoder (R61, R72) and the byte image of a word
(20_memory.md R48). -/

namespace Sys2Proof

/-- What a word decodes to (30_encoding.md R65). -/
inductive Decoded where
  | command (i : Instr)
  | illegalCmd
  | illegalOperand
  deriving DecidableEq, Repr

/-- The rows of the opcode map (30_encoding.md R64). -/
inductive Opcode where
  | nop | init | clrcoef | ldcoef | setfirst | detlast | cost | rdreg | ldprob | ldcostt
  deriving DecidableEq, Repr

/-- The command a value of `OPC` selects; 0xA to 0xF are reserved (30_encoding.md R64, R66). -/
def opcodeOfBits (opc : BitVec 4) : Option Opcode :=
  match opc.toNat with
  | 0x0 => some .nop
  | 0x1 => some .init
  | 0x2 => some .clrcoef
  | 0x3 => some .ldcoef
  | 0x4 => some .setfirst
  | 0x5 => some .detlast
  | 0x6 => some .cost
  | 0x7 => some .rdreg
  | 0x8 => some .ldprob
  | 0x9 => some .ldcostt
  | _ => none

/-- The `match` column of 30_encoding.md R64. -/
def opcodeMatch : Opcode → Word
  | .nop => 0x00000000
  | .init => 0x10000000
  | .clrcoef => 0x20000000
  | .ldcoef => 0x30000000
  | .setfirst => 0x40000000
  | .detlast => 0x50000000
  | .cost => 0x60000000
  | .rdreg => 0x70000000
  | .ldprob => 0x80000000
  | .ldcostt => 0x90000000

/-- The `mask` column of 30_encoding.md R64: `OPC` and every must-be-zero bit of the format. -/
def opcodeMask : Opcode → Word
  | .nop => 0xFFFFFFFF
  | .init => 0xFFFFFFFF
  | .clrcoef => 0xFFFFFFFF
  | .ldcoef => 0xFFF00000
  | .setfirst => 0xFFFFFFF0
  | .detlast => 0xFFFFFFFF
  | .cost => 0xFFFFFFFC
  | .rdreg => 0xFFFFFFC0
  | .ldprob => 0xF07FFF00
  | .ldcostt => 0xF0000000

/-- A context field; 3 is reserved (30_encoding.md R70). -/
def ctxOfBits (b : BitVec 2) : Option Ctx :=
  if h : b.toNat < 3 then some ⟨b.toNat, h⟩ else none

/-- A level field; 68..127 are reserved (30_encoding.md R70). -/
def levelOfBits (b : BitVec 7) : Option Level :=
  if h : b.toNat < 68 then some ⟨b.toNat, h⟩ else none

/-- A band field; `NUM_BANDS`..7 are reserved (30_encoding.md R70). -/
def bandOfBits (numBands : Nat) (b : BitVec 3) : Option Band :=
  if b.toNat < numBands then some ⟨b.toNat, b.isLt⟩ else none

/-- A register number; 10..15 and 32..63 are reserved (10_state.md R25, 30_encoding.md R69). -/
def regOfBits (b : BitVec 6) : Option Reg :=
  match b.toNat with
  | 0 => some .status
  | 1 => some .first
  | 2 => some .last
  | 3 => some .result
  | 4 => some .fault
  | 5 => some .finfo
  | 6 => some .strat
  | 7 => some .cap
  | 8 => some .unitId
  | 9 => some .params
  | n => if h : 16 ≤ n ∧ n < 32 then some (.coef ⟨n - 16, by omega⟩) else none

/-- The command of a row with its fields (30_encoding.md R61, R63), or the reason a field is refused (R65, R69, R70). -/
def decodeFields (numBands : Nat) (w : Word) : Opcode → Decoded
  | .nop => .command .nop
  | .init => .command .init
  | .clrcoef => .command .clrcoef
  | .ldcoef =>
    let idx := w.extractLsb' 16 4
    .command (.ldcoef ⟨idx.toNat, idx.isLt⟩ (w.extractLsb' 0 16))
  | .setfirst => .command (.setfirst (w.extractLsb' 0 4))
  | .detlast => .command .detlast
  | .cost =>
    match ctxOfBits (w.extractLsb' 0 2) with
    | some c => .command (.cost c)
    | none => .illegalOperand
  | .rdreg =>
    match regOfBits (w.extractLsb' 0 6) with
    | some r => .command (.rdreg r)
    | none => .illegalCmd
  | .ldprob =>
    match bandOfBits numBands (w.extractLsb' 25 3), ctxOfBits (w.extractLsb' 23 2) with
    | some b, some c => .command (.ldprob b c (w.extractLsb' 0 8))
    | _, _ => .illegalOperand
  | .ldcostt =>
    match bandOfBits numBands (w.extractLsb' 25 3), ctxOfBits (w.extractLsb' 23 2),
        levelOfBits (w.extractLsb' 16 7) with
    | some b, some c, some l => .command (.ldcostt b c l (w.extractLsb' 0 16))
    | _, _, _ => .illegalOperand

/-- The total decoder of 30_encoding.md R65: it looks at the word and at `NUM_BANDS` only. -/
def decode (numBands : Nat) (w : Word) : Decoded :=
  match opcodeOfBits (w.extractLsb' 28 4) with
  | none => .illegalCmd
  | some op =>
    if w &&& opcodeMask op = opcodeMatch op then decodeFields numBands w op else .illegalCmd

/-- A command word's bytes, lowest address first: little-endian (20_memory.md R48). -/
def wordBytes (w : Word) : List Byte :=
  [w.extractLsb' 0 8, w.extractLsb' 8 8, w.extractLsb' 16 8, w.extractLsb' 24 8]

/-- What a host's byte image of commands decodes to: a decoded word and the bytes after it, or too few bytes for one. -/
inductive DecodedBytes where
  | word (d : Decoded) (rest : List Byte)
  | truncated
  deriving DecidableEq, Repr

/-- Decoding of any bytes: four little-endian bytes are one command word (20_memory.md R48, 30_encoding.md R60). -/
def decodeBytes (numBands : Nat) : List Byte → DecodedBytes
  | b0 :: b1 :: b2 :: b3 :: rest => .word (decode numBands (b3 ++ b2 ++ b1 ++ b0)) rest
  | _ => .truncated

/-- The instruction read from a word of the opcode table under the default configuration. -/
def decodeTableWord (nbits w : Nat) : Option Instr :=
  match decodeBytes Config.default.numBands (wordBytes (BitVec.ofNat 32 (w % 2 ^ nbits))) with
  | .word (.command i) _ => some i
  | _ => none

/-- A register's number (10_state.md R25). -/
def regNumber : Reg → BitVec 6
  | .status => 0
  | .first => 1
  | .last => 2
  | .result => 3
  | .fault => 4
  | .finfo => 5
  | .strat => 6
  | .cap => 7
  | .unitId => 8
  | .params => 9
  | .coef i => BitVec.ofNat 6 (16 + i.val)

/-- The row of the opcode map a command belongs to (30_encoding.md R64). -/
def opcodeOf : Instr → Opcode
  | .nop => .nop
  | .init => .init
  | .clrcoef => .clrcoef
  | .ldcoef _ _ => .ldcoef
  | .setfirst _ => .setfirst
  | .detlast => .detlast
  | .cost _ => .cost
  | .rdreg _ => .rdreg
  | .ldprob _ _ _ => .ldprob
  | .ldcostt _ _ _ _ => .ldcostt

/-- The command word, laid out by the bit pictures of 30_encoding.md R61. -/
def encode : Instr → Word
  | .nop => 0x0#4 ++ 0#28
  | .init => 0x1#4 ++ 0#28
  | .clrcoef => 0x2#4 ++ 0#28
  | .ldcoef idx val => 0x3#4 ++ 0#8 ++ BitVec.ofNat 4 idx.val ++ val
  | .setfirst first => 0x4#4 ++ 0#24 ++ first
  | .detlast => 0x5#4 ++ 0#28
  | .cost ctx0 => 0x6#4 ++ 0#26 ++ BitVec.ofNat 2 ctx0.val
  | .rdreg reg => 0x7#4 ++ 0#22 ++ regNumber reg
  | .ldprob band ctx val =>
    0x8#4 ++ BitVec.ofNat 3 band.val ++ BitVec.ofNat 2 ctx.val ++ 0#15 ++ val
  | .ldcostt band ctx level val =>
    0x9#4 ++ BitVec.ofNat 3 band.val ++ BitVec.ofNat 2 ctx.val ++ BitVec.ofNat 7 level.val ++ val

end Sys2Proof
end

