-- ==== Sys2Proof/Machine/State.lean ====
section
/-! DEFINITION. The state of CSD-ECA as plain data (10_state.md), the reasons a step can stop, and reset (R30). -/

namespace Sys2Proof.Machine

/-- Why the model stops with a fault. The spec's own faults are NOT here: they latch `FAULTED` and are next states
(60_exceptions.md R160). -/
inductive Fault where
  /-- Raised by every meaning when `cur` names no unit of the block; safe: `step` never answers it, since it serves
  existing units only. -/
  | noSuchUnit
  deriving DecidableEq, Repr

/-- Why the model refuses an instruction. -/
inductive Refusal where
  /-- Raised by `exec` for an instruction without a meaning (there is none left); safe. -/
  | notModelled (mnemonic : String)
  deriving DecidableEq, Repr

/-- A writable table: the entries that have a value, as (linear entry number, entry) pairs in rising order of their
numbers (20_memory.md R42, R47). An entry's valid flag is its presence. -/
abbrev Memory (width : Nat) := List (Nat × BitVec width)

/-- The canonical form: entry numbers strictly rise. -/
abbrev Memory.wf {width : Nat} (m : Memory width) : Prop := m.Pairwise (fun x y => x.1 < y.1)

/-- What the outside of the block does next. -/
inductive Event where
  /-- The interleaving of 20_memory.md R52 lets this unit take the word at the head of its port. -/
  | grant (unit : Nat)
  /-- A host presents a word on a unit's command port (30_encoding.md R60). -/
  | present (unit : Nat) (w : Word)
  /-- A host takes the oldest response of a unit (30_encoding.md R62). -/
  | drain (unit : Nat)
  /-- The hosting environment drives the input `CAP` (10_state.md R22). -/
  | driveCap (level : Bool)
  /-- The reset input is asserted and released while the units in `busy` have the command at the head of their port in
  progress (70_reset_and_hazards.md R180). -/
  | reset (busy : List Nat)
  deriving DecidableEq, Repr

/-- One unit (10_state.md R28). The content of a register whose valid flag is off is unreadable (R17). -/
structure UnitState where
  /-- `COEF[0..15]`, two's complement (R10). -/
  coef : Vector (BitVec 16) 16
  /-- `COEFV`: bit `i` is the valid flag of `COEF[i]` (R11, R18). -/
  coefV : BitVec 16
  /-- `FIRST` (R13). -/
  first : BitVec 4
  firstV : Bool
  /-- `LAST`, two's complement (R14). -/
  last : BitVec 5
  lastV : Bool
  /-- `RESULT` (R15). -/
  result : BitVec 32
  resultV : Bool
  /-- The fault latch (R18, R19, R20; 60_exceptions.md R160). -/
  faulted : Bool
  fcause : BitVec 4
  fpos : BitVec 5
  finfo : Word
  /-- Words waiting on the command port, the next one first (30_encoding.md R60). -/
  port : List Word
  /-- The response channel, oldest first (30_encoding.md R62). -/
  responses : List Word
  deriving DecidableEq, Repr

/-- The whole block: configuration, units, shared state (10_state.md R28), inputs, and the model's own fields. -/
structure State where
  cfg : Config
  /-- The units by `UNITID` (R23, R28). -/
  units : List UnitState
  /-- `PROB` with `PROBV` (20_memory.md R41, R42). -/
  prob : Memory 8
  /-- `COSTT` with `COSTTV` (20_memory.md R42, R43). -/
  costt : Memory 16
  /-- `STRAT.SEL_DET` and `STRAT.SEL_COST` (R21): true is the accelerated implementation. -/
  selDet : Bool
  selCost : Bool
  /-- `INIT_DONE` (R21). -/
  initDone : Bool
  /-- The input `CAP` (R22). -/
  cap : Bool
  /-- The model's own (log 7): the unit whose command is executed. -/
  cur : Nat
  /-- The model's own (log 6): what the outside does next, in order. -/
  events : List Event
  /-- The model's own (log 8): free choices between waiting units taken so far. -/
  draws : Nat
  deriving DecidableEq, Repr

/-- A unit after reset (10_state.md R30). The contents of `coef`, `first`, `last`, `result` are a DESIGN CHOICE
(log 1): the spec gives none and makes them unreadable. -/
def UnitState.reset : UnitState where
  coef := Vector.replicate 16 0
  coefV := 0
  first := 0
  firstV := false
  last := 0
  lastV := false
  result := 0
  resultV := false
  faulted := false
  fcause := 0
  fpos := 0
  finfo := 0
  port := []
  responses := []

/-- The block after reset (10_state.md R30) for a configuration and a level of `CAP`, with nothing on any port. -/
def State.initial (c : Config) (cap : Bool) : State where
  cfg := c
  units := List.replicate c.nUnits UnitState.reset
  prob := []
  costt := []
  selDet := false
  selCost := false
  initDone := false
  cap := cap
  cur := 0
  events := []
  draws := 0

/-- The block after reset under the default parameters of 00_scope.md R5. -/
def State.reset : State := State.initial Config.default Config.freeCap

end Sys2Proof.Machine
end

