-- ==== Sys2Proof/Machine/Operands.lean ====
section
/-! DEFINITION. What the commands compute from operands and coefficients: positions, magnitudes, contexts and levels
(42_cost_estimator.md R101, R108, R110) and the Scan Detector's function (41_scan_detector.md R91 to R93). -/

namespace Sys2Proof.Machine

/-- The 16 scan positions, ascending. -/
def allPositions : List Pos := [0, 1, 2, 3, 4, 5, 6, 7, 8, 9, 10, 11, 12, 13, 14, 15]

/-- The 16 scan positions, descending. -/
def descendingPositions : List Pos := [15, 14, 13, 12, 11, 10, 9, 8, 7, 6, 5, 4, 3, 2, 1, 0]

/-- `mag` (42_cost_estimator.md R101): the absolute value, computed without wrap-around. -/
def mag (x : BitVec 16) : Nat := x.toInt.natAbs

/-- `bucket(v) = min(v, 2)` (42_cost_estimator.md R101). -/
def bucket (v : Nat) : Ctx := ⟨min v 2, by omega⟩

/-- `clamp(v) = min(v, 67)` (42_cost_estimator.md R101). -/
def clamp (v : Nat) : Level := ⟨min v 67, by omega⟩

/-- The position a signed `LAST` names, none when it is negative (10_state.md R14). -/
def lastPosition (last : BitVec 5) : Option Pos :=
  if h : last.toNat < 16 then some ⟨last.toNat, h⟩ else none

/-- The position `FIRST` names (10_state.md R13). -/
def firstPosition (first : BitVec 4) : Pos := ⟨first.toNat, first.isLt⟩

/-- The positions from `first` to `last`, ascending (42_cost_estimator.md R105). -/
def scanRange (first last : Pos) : List Pos :=
  allPositions.filter (fun n => decide (first ≤ n) && decide (n ≤ last))

/-- The index the Scan Detector returns for the position it found: -1 for none (41_scan_detector.md R91). -/
def indexOf : Option Pos → Int
  | some i => (i.val : Int)
  | none => -1

/-- `detectLast` as the spec states it, `max({-1} ∪ (the positions holding a nonzero coefficient))`
(41_scan_detector.md R91). -/
def detectLast (coef : Vector (BitVec 16) 16) : Int :=
  allPositions.foldl (fun r i => if coef[i] ≠ 0 then max r (i.val : Int) else r) (-1)

/-- The baseline form: reverse scan, stopping at the first nonzero (41_scan_detector.md R93). -/
def detectLastSeq (coef : Vector (BitVec 16) 16) : Int :=
  indexOf (descendingPositions.find? (fun i => decide (coef[i] ≠ 0)))

/-- The accelerated form's mask: bit `i` tells whether lane `i` is nonzero (41_scan_detector.md R92). -/
def nonzeroMask (coef : Vector (BitVec 16) 16) : BitVec 16 :=
  allPositions.foldl (fun m i => if coef[i] ≠ 0 then m ||| BitVec.twoPow 16 i.val else m) 0

/-- The greatest `i` with `m[i] = 1`, a 16-input priority encoder; none for an all-zero mask
(41_scan_detector.md R92). -/
def mostSignificant (m : BitVec 16) : Option Pos :=
  descendingPositions.find? (fun i => m.getLsbD i.val)

/-- The accelerated form (41_scan_detector.md R92). -/
def detectLastPar (coef : Vector (BitVec 16) 16) : Int :=
  indexOf (mostSignificant (nonzeroMask coef))

/-- The implementation `SEL_DET` selects (10_state.md R21; 41_scan_detector.md R92, R93). -/
def detectLastBy (sel : Bool) (coef : Vector (BitVec 16) 16) : Int :=
  if sel then detectLastPar coef else detectLastSeq coef

/-- What the Cost Estimator takes from one coefficient: its magnitude, its context bucket and its clamped level
(42_cost_estimator.md R110). -/
structure Lane where
  mag : Nat
  ctx : Ctx
  level : Level
  deriving DecidableEq, Repr

/-- The scalar form: computed from the coefficient when its position is reached (42_cost_estimator.md R100). -/
def scalarLane (coef : Vector (BitVec 16) 16) (n : Pos) : Lane :=
  ⟨mag coef[n], bucket (mag coef[n]), clamp (mag coef[n])⟩

/-- The accelerated form's scratch arrays `MAGS`, `CTXS`, `LEVELS` (42_cost_estimator.md R110). -/
structure Scratch where
  mags : Vector Nat 16
  ctxs : Vector Ctx 16
  levels : Vector Level 16
  deriving DecidableEq, Repr

/-- All lanes at once (42_cost_estimator.md R110). -/
def precompute (coef : Vector (BitVec 16) 16) : Scratch where
  mags := coef.map mag
  ctxs := coef.map (fun x => bucket (mag x))
  levels := coef.map (fun x => clamp (mag x))

/-- The accelerated form: read from the scratch arrays (42_cost_estimator.md R110). -/
def parallelLane (coef : Vector (BitVec 16) 16) (n : Pos) : Lane :=
  ⟨(precompute coef).mags[n], (precompute coef).ctxs[n], (precompute coef).levels[n]⟩

/-- The implementation `SEL_COST` selects (10_state.md R21; 42_cost_estimator.md R110). -/
def laneBy (sel : Bool) (coef : Vector (BitVec 16) 16) (n : Pos) : Lane :=
  if sel then parallelLane coef n else scalarLane coef n

/-- The context of the row that costs the position after a coefficient: that coefficient's bucket
(42_cost_estimator.md R108, decision D12; 90_conflicts.md C2). The one place this choice is made. -/
def nextContext (lane : Lane) : Ctx := lane.ctx

/-- The linear number of `PROB[b][c]` (20_memory.md R47). -/
def probEntry (b : Band) (c : Ctx) : Nat := 3 * b.val + c.val

/-- The linear number of `COSTT[b][c][l]` (20_memory.md R47). -/
def costtEntry (b : Band) (c : Ctx) (l : Level) : Nat := (3 * b.val + c.val) * 68 + l.val

/-- The implementation the capability selects: `select(cap) = cap` (43_strategy_system.md R135). -/
def selectStrategy (cap : Bool) : Bool := cap

end Sys2Proof.Machine
end

