-- ==== Sys2Proof/Machine/Flags.lean ====
section
/-! DEFINITION. The valid flags and the registers made of flags (10_state.md R11, R17 to R24), and the fault codes
(60_exceptions.md R151, R153). -/

namespace Sys2Proof.Machine

/-- `COEFV[i] <- 1` (10_state.md R11). -/
def setCoefFlag (v : BitVec 16) (i : Pos) : BitVec 16 := v ||| BitVec.twoPow 16 i.val

/-- `COEFV[i]` (10_state.md R11). -/
def coefFlag (v : BitVec 16) (i : Pos) : Bool := v.getLsbD i.val

/-- `COEF_ALLV`, the AND of the 16 flags (10_state.md R11). -/
def coefAllV (v : BitVec 16) : Bool := decide (v = BitVec.allOnes 16)

/-- The lowest position whose coefficient has no value (41_scan_detector.md R90). -/
def lowestUnwritten (v : BitVec 16) : Option Pos := allPositions.find? (fun i => !coefFlag v i)

/-- The causes a fault can have (60_exceptions.md R151). -/
inductive Cause where
  | illegalCmd | illegalOperand | notInit | unwrittenState | unwrittenTable | contractFirst | levelRange
  deriving DecidableEq, Repr

/-- The code `FCAUSE` takes (60_exceptions.md R151). -/
def causeCode : Cause → BitVec 4
  | .illegalCmd => 1
  | .illegalOperand => 2
  | .notInit => 3
  | .unwrittenState => 4
  | .unwrittenTable => 5
  | .contractFirst => 6
  | .levelRange => 7

/-- `raise F(pos)`: what a fault records beside the command word (60_exceptions.md R153, R160). -/
structure Raise where
  cause : Cause
  pos : Pos
  deriving DecidableEq, Repr

/-- `STATUS` (10_state.md R18). -/
def statusWord (initDone : Bool) (u : UnitState) : Word :=
  u.coefV ++ 0#10 ++ BitVec.ofBool (coefAllV u.coefV) ++ BitVec.ofBool u.resultV ++ BitVec.ofBool u.lastV ++
    BitVec.ofBool u.firstV ++ BitVec.ofBool initDone ++ BitVec.ofBool u.faulted

/-- `FAULT` (10_state.md R19). -/
def faultWord (u : UnitState) : Word := 0#23 ++ u.fpos ++ u.fcause

/-- `STRAT` (10_state.md R21). -/
def stratWord (selDet selCost : Bool) : Word := 0#30 ++ BitVec.ofBool selCost ++ BitVec.ofBool selDet

/-- `PARAMS` (10_state.md R24). -/
def paramsWord (c : Config) : Word :=
  0#4 ++ BitVec.ofNat 8 c.nUnits ++ BitVec.ofNat 4 c.numBands ++ BitVec.ofNat 16 c.maxLevel

end Sys2Proof.Machine
end

