-- ==== Sys2Proof/Machine/Ops.lean ====
section
/-! DEFINITION. The named operations over tables, units and the shared state: table access (20_memory.md R44),
responding (30_encoding.md R62), the register map (10_state.md R25), taking a fault (60_exceptions.md R160), the
common prologue (R155), and reset (70_reset_and_hazards.md R180), the only way out of a fault (R162). -/

namespace Sys2Proof.Machine

/-- The entry of a table, none when it has no value (20_memory.md R42, R44). -/
def Memory.read {width : Nat} : Memory width → Nat → Option (BitVec width)
  | [], _ => none
  | (k, v) :: m, i => if k = i then some v else Memory.read m i

/-- Write one whole entry and its valid flag, keeping the canonical form (20_memory.md R44, R50). -/
def Memory.write {width : Nat} : Memory width → Nat → BitVec width → Memory width
  | [], i, x => [(i, x)]
  | (k, v) :: m, i, x =>
    if i < k then (i, x) :: (k, v) :: m
    else if i = k then (i, x) :: m
    else (k, v) :: Memory.write m i x

/-- The unit whose command is executed. -/
def State.unit (s : State) : Option UnitState := s.units[s.cur]?

/-- The state with the executing unit replaced. -/
def State.setUnit (s : State) (u : UnitState) : State := { s with units := s.units.set s.cur u }

/-- `TblRead(PROB, b, c)` for a rule that names `pos` (20_memory.md R44). -/
def State.readProb (s : State) (b : Band) (c : Ctx) (pos : Pos) : Except Raise (BitVec 8) :=
  match Memory.read s.prob (probEntry b c) with
  | some p => .ok p
  | none => .error ⟨.unwrittenTable, pos⟩

/-- `TblRead(COSTT, b, c, l)` for a rule that names `pos` (20_memory.md R44). -/
def State.readCostt (s : State) (b : Band) (c : Ctx) (l : Level) (pos : Pos) : Except Raise (BitVec 16) :=
  match Memory.read s.costt (costtEntry b c l) with
  | some t => .ok t
  | none => .error ⟨.unwrittenTable, pos⟩

/-- `TblRead(BAND, n)` at a position 0..16 (20_memory.md R44, R45). -/
def State.readBand (s : State) (n : Fin 17) : Band := s.cfg.band[n]

/-- `TblRead(LFC, v)` (20_memory.md R44, R45); beyond the table's end, where no rule calls it, a free value (log 9). -/
def State.readLfc (s : State) (v : Nat) : BitVec 16 := s.cfg.lfc[v]?.getD (Config.lfcBeyond v)

/-- `TblRead(ECOST_NO, p)` (20_memory.md R44, R46). -/
def State.readEcostNo (s : State) (p : BitVec 8) : BitVec 16 := s.cfg.ecostNo[p.toFin]

/-- `TblRead(ECOST_YES, p)` (20_memory.md R44, R46). -/
def State.readEcostYes (s : State) (p : BitVec 8) : BitVec 16 := s.cfg.ecostYes[p.toFin]

/-- `TblWrite(PROB, b, c, v)` (20_memory.md R44). -/
def State.writeProb (s : State) (b : Band) (c : Ctx) (v : BitVec 8) : State :=
  { s with prob := Memory.write s.prob (probEntry b c) v }

/-- `TblWrite(COSTT, b, c, l, v)` (20_memory.md R44). -/
def State.writeCostt (s : State) (b : Band) (c : Ctx) (l : Level) (v : BitVec 16) : State :=
  { s with costt := Memory.write s.costt (costtEntry b c l) v }

/-- The three writes of `INIT`, together (43_strategy_system.md R131). -/
def State.setStrategy (s : State) : State :=
  { s with selDet := selectStrategy s.cap, selCost := selectStrategy s.cap, initDone := true }

/-- `for i in 0..15: COEF[i] <- 0; COEFV[i] <- 1`, and `LASTV <- 0` (40_block_load.md R80). -/
def UnitState.clearCoefs (u : UnitState) : UnitState :=
  { u with coef := Vector.replicate 16 0, coefV := BitVec.allOnes 16, lastV := false }

/-- `COEF[i] <- v; COEFV[i] <- 1; LASTV <- 0` (40_block_load.md R81). -/
def UnitState.setCoef (u : UnitState) (i : Pos) (v : BitVec 16) : UnitState :=
  { u with coef := u.coef.set i v, coefV := setCoefFlag u.coefV i, lastV := false }

/-- `FIRST <- v; FIRSTV <- 1` (40_block_load.md R82). -/
def UnitState.setFirst (u : UnitState) (v : BitVec 4) : UnitState := { u with first := v, firstV := true }

/-- `LAST <- r; LASTV <- 1` (41_scan_detector.md R90). -/
def UnitState.setLast (u : UnitState) (r : Int) : UnitState :=
  { u with last := BitVec.ofInt 5 r, lastV := true }

/-- `RESULT <- total; RESULTV <- 1` (42_cost_estimator.md R100). -/
def UnitState.setResult (u : UnitState) (total : BitVec 32) : UnitState :=
  { u with result := total, resultV := true }

/-- `Respond(v)`: one word at the end of the response channel (30_encoding.md R62). -/
def UnitState.respond (u : UnitState) (v : Word) : UnitState := { u with responses := u.responses ++ [v] }

/-- Fault entry (60_exceptions.md R160): these four registers and nothing else. -/
def UnitState.latch (u : UnitState) (w : Word) (r : Raise) : UnitState :=
  { u with faulted := true, fcause := causeCode r.cause, fpos := BitVec.ofNat 5 r.pos.val, finfo := w }

/-- Taking a fault on the executing unit (60_exceptions.md R160). -/
def State.takeFault (s : State) (u : UnitState) (w : Word) (r : Raise) : State := s.setUnit (u.latch w r)

/-- What a register returns, none when it has no value (10_state.md R25, R17). -/
def regValue (s : State) (u : UnitState) : Reg → Option Word
  | .status => some (statusWord s.initDone u)
  | .first => if u.firstV then some (u.first.setWidth 32) else none
  | .last => if u.lastV then some (u.last.signExtend 32) else none
  | .result => if u.resultV then some u.result else none
  | .fault => some (faultWord u)
  | .finfo => some u.finfo
  | .strat => if s.initDone then some (stratWord s.selDet s.selCost) else none
  | .cap => some ((BitVec.ofBool s.cap).setWidth 32)
  | .unitId => some (BitVec.ofNat 32 s.cur)
  | .params => some (paramsWord s.cfg)
  | .coef i => if coefFlag u.coefV i then some (u.coef[i].signExtend 32) else none

/-- The registers a `FAULTED` unit answers: 0, 4, 5, 7, 8, 9 (60_exceptions.md R161). -/
def readableWhileFaulted : Reg → Bool
  | .status => true
  | .first => false
  | .last => false
  | .result => false
  | .fault => true
  | .finfo => true
  | .strat => false
  | .cap => true
  | .unitId => true
  | .params => true
  | .coef _ => false

/-- A command on the executing unit: on a `FAULTED` unit `dropped`, else `body` (60_exceptions.md R155). -/
def onUnit (s : State) (dropped : UnitState → State) (body : UnitState → State) :
    Host.Outcome State Fault Refusal :=
  match s.unit with
  | none => .fault .noSuchUnit
  | some u => if u.faulted then .next (dropped u) else .next (body u)

/-- The common prologue: a `FAULTED` unit drops the command with no state change (60_exceptions.md R155, R161). -/
def command (s : State) (body : UnitState → State) : Host.Outcome State Fault Refusal :=
  onUnit s (fun _ => s) body

/-- A word that decodes to no command (60_exceptions.md R155): the fault at position 0, dropped by a `FAULTED` unit. -/
def illegalWord (s : State) (w : Word) (c : Cause) : Host.Outcome State Fault Refusal :=
  command s (fun u => s.takeFault u w ⟨c, 0⟩)

/-- Reset of one unit: every register as 10_state.md R30 says, the words not yet accepted still on its port (log 2). -/
def UnitState.applyReset (u : UnitState) : UnitState := { UnitState.reset with port := u.port }

/-- The reset transition, available in any state (70_reset_and_hazards.md R180). Configuration and inputs are not
state of the block and stay. -/
def State.applyReset (s : State) : State :=
  { s with
    units := s.units.map UnitState.applyReset
    prob := []
    costt := []
    selDet := false
    selCost := false
    initDone := false }

end Sys2Proof.Machine
end

