-- ==== Sys2Proof/Machine/Block.lean ====
section
/-! DEFINITION. The Coefficient Block commands (40_block_load.md). -/

namespace Sys2Proof.Machine

/-- `CLRCOEF` (40_block_load.md R80). -/
def execClrcoef (s : State) : Host.Outcome State Fault Refusal :=
  command s (fun u => s.setUnit u.clearCoefs)

/-- `LDCOEF idx, val` (40_block_load.md R81). -/
def execLdcoef (idx : Pos) (val : BitVec 16) (s : State) : Host.Outcome State Fault Refusal :=
  command s (fun u => s.setUnit (u.setCoef idx val))

/-- `SETFIRST first` (40_block_load.md R82). -/
def execSetfirst (first : BitVec 4) (s : State) : Host.Outcome State Fault Refusal :=
  command s (fun u => s.setUnit (u.setFirst first))

end Sys2Proof.Machine
end

