-- ==== Sys2Proof/Machine/Cost.lean ====
section
/-! DEFINITION. The Cost Estimator command (42_cost_estimator.md). -/

namespace Sys2Proof.Machine

/-- The lowest position below `FIRST` that breaks the caller's promise (42_cost_estimator.md R107). -/
def brokenPromise (u : UnitState) : Option Pos :=
  allPositions.find? (fun i => decide (i < firstPosition u.first) && decide (u.coef[i] ≠ 0))

/-- The cost of one coefficient of magnitude `v` under row (`b`, `c`), the two terms added in the 32-bit accumulator,
with the check of R105 before `LFC` is indexed (42_cost_estimator.md R102, R105). -/
def levelCost (s : State) (b : Band) (c : Ctx) (lane : Lane) (n : Pos) : Except Raise (BitVec 32) :=
  if s.cfg.maxLevel < lane.mag then .error ⟨.levelRange, n⟩
  else
    match s.readCostt b c lane.level n with
    | .error r => .error r
    | .ok t => .ok ((s.readLfc lane.mag).setWidth 32 + t.setWidth 32)

/-- Steps 5 and 6 over the positions still to cost, with the current row (`b`, `c`) and the accumulator
(42_cost_estimator.md R100, R105, R108). -/
def costLoop (s : State) (lane : Pos → Lane) (last : Pos) :
    List Pos → Band → Ctx → BitVec 32 → Except Raise (BitVec 32)
  | [], _, _, acc => .ok acc
  | n :: ns, b, c, acc =>
    match levelCost s b c (lane n) n with
    | .error r => .error r
    | .ok v =>
      if n < last then costLoop s lane last ns (s.readBand n.succ) (nextContext (lane n)) (acc + v)
      else costLoop s lane last ns b c (acc + v)

/-- Step 7: the terminating signal, nothing when `LAST` is 15 (42_cost_estimator.md R106). -/
def terminatingCost (s : State) (lane : Pos → Lane) (last : Pos) : Except Raise (BitVec 32) :=
  if h : last.val < 15 then
    match s.readProb (s.readBand last.succ) (lane last).ctx ⟨last.val + 1, by omega⟩ with
    | .error r => .error r
    | .ok p => .ok ((s.readEcostNo p).setWidth 32)
  else .ok 0

/-- Step 2: the base cost (42_cost_estimator.md R103). -/
def baseCost (s : State) (ctx0 : Ctx) (p0 : BitVec 8) : BitVec 32 :=
  if ctx0 = 0 then (s.readEcostYes p0).setWidth 32 else 0

/-- The non-empty block: base cost, coefficients, terminating signal (42_cost_estimator.md R100). -/
def blockCost (s : State) (lane : Pos → Lane) (ctx0 : Ctx) (p0 : BitVec 8) (first last : Pos) :
    Except Raise (BitVec 32) :=
  match costLoop s lane last (scanRange first last) (s.readBand first.castSucc) ctx0 (baseCost s ctx0 p0) with
  | .error r => .error r
  | .ok acc =>
    match terminatingCost s lane last with
    | .error r => .error r
    | .ok t => .ok (acc + t)

/-- Steps 1, 3 and 8 after the checks: the starting probability, the empty block, the total
(42_cost_estimator.md R104, R109). -/
def totalCost (s : State) (u : UnitState) (ctx0 : Ctx) : Except Raise (BitVec 32) :=
  let first := firstPosition u.first
  match s.readProb (s.readBand first.castSucc) ctx0 first with
  | .error r => .error r
  | .ok p0 =>
    match lastPosition u.last with
    | none => .ok ((s.readEcostNo p0).setWidth 32)
    | some last => blockCost s (laneBy s.selCost u.coef) ctx0 p0 first last

/-- `COST` with its checks in order (42_cost_estimator.md R100, R111). -/
def costValue (s : State) (u : UnitState) (ctx0 : Ctx) : Except Raise (BitVec 32) :=
  if s.initDone = false then .error ⟨.notInit, 0⟩
  else if u.firstV = false then .error ⟨.unwrittenState, 0⟩
  else if u.lastV = false then .error ⟨.unwrittenState, 0⟩
  else
    match brokenPromise u with
    | some i => .error ⟨.contractFirst, i⟩
    | none => totalCost s u ctx0

/-- `COST ctx0` (42_cost_estimator.md R100). -/
def execCost (ctx0 : Ctx) (s : State) : Host.Outcome State Fault Refusal :=
  command s (fun u =>
    match costValue s u ctx0 with
    | .error r => s.takeFault u (encode (.cost ctx0)) r
    | .ok total => s.setUnit ((u.setResult total).respond total))

end Sys2Proof.Machine
end

