-- ==== Sys2Proof/Machine/Scan.lean ====
section
/-! DEFINITION. The Scan Detector command (41_scan_detector.md). -/

namespace Sys2Proof.Machine

/-- The checks of `DETLAST` in order, then the index (41_scan_detector.md R90). -/
def detlastIndex (s : State) (u : UnitState) : Except Raise Int :=
  if s.initDone = false then .error ⟨.notInit, 0⟩
  else
    match lowestUnwritten u.coefV with
    | some i => .error ⟨.unwrittenState, i⟩
    | none => .ok (detectLastBy s.selDet u.coef)

/-- `DETLAST` (41_scan_detector.md R90). -/
def execDetlast (s : State) : Host.Outcome State Fault Refusal :=
  command s (fun u =>
    match detlastIndex s u with
    | .error r => s.takeFault u (encode .detlast) r
    | .ok r => s.setUnit ((u.setLast r).respond (BitVec.ofInt 32 r)))

end Sys2Proof.Machine
end

