-- ==== Sys2Proof/Machine/System.lean ====
section
/-! DEFINITION. Strategy Dispatch and the system commands (43_strategy_system.md). -/

namespace Sys2Proof.Machine

/-- `NOP` (43_strategy_system.md R130). -/
def execNop (s : State) : Host.Outcome State Fault Refusal := command s (fun _ => s)

/-- `INIT` (43_strategy_system.md R131). -/
def execInit (s : State) : Host.Outcome State Fault Refusal := command s (fun _ => s.setStrategy)

/-- Answering a register read, or `novalue` when the register has no value (43_strategy_system.md R133). -/
def answerReg (s : State) (u : UnitState) (reg : Reg) (novalue : State) : State :=
  match regValue s u reg with
  | some v => s.setUnit (u.respond v)
  | none => novalue

/-- `RDREG reg` (43_strategy_system.md R133): a `FAULTED` unit answers six registers and drops the rest
(60_exceptions.md R161). -/
def execRdreg (reg : Reg) (s : State) : Host.Outcome State Fault Refusal :=
  onUnit s
    (fun u => if readableWhileFaulted reg then answerReg s u reg s else s)
    (fun u => answerReg s u reg (s.takeFault u (encode (.rdreg reg)) ⟨.unwrittenState, 0⟩))

end Sys2Proof.Machine
end

