-- ==== Sys2Proof/Machine/Tables.lean ====
section
/-! DEFINITION. The table-load commands (44_table_load.md). -/

namespace Sys2Proof.Machine

/-- `LDPROB band, ctx, val` (44_table_load.md R140). -/
def execLdprob (band : Band) (ctx : Ctx) (val : BitVec 8) (s : State) : Host.Outcome State Fault Refusal :=
  command s (fun u =>
    if band.val < s.cfg.numBands then s.writeProb band ctx val
    else s.takeFault u (encode (.ldprob band ctx val)) ⟨.illegalOperand, 0⟩)

/-- `LDCOSTT band, ctx, level, val` (44_table_load.md R141). -/
def execLdcostt (band : Band) (ctx : Ctx) (level : Level) (val : BitVec 16) (s : State) :
    Host.Outcome State Fault Refusal :=
  command s (fun u =>
    if band.val < s.cfg.numBands then s.writeCostt band ctx level val
    else s.takeFault u (encode (.ldcostt band ctx level val)) ⟨.illegalOperand, 0⟩)

end Sys2Proof.Machine
end

