-- ==== Sys2Proof/Machine/Dispatch.lean ====
section
/-! DEFINITION. One arm per command (30_encoding.md R64). -/

namespace Sys2Proof.Machine

def exec (i : Instr) (s : State) : Host.Outcome State Fault Refusal :=
  match i with
  | .nop => Sys2Proof.Machine.execNop s
  | .init => Sys2Proof.Machine.execInit s
  | .clrcoef => Sys2Proof.Machine.execClrcoef s
  | .ldcoef idx val => Sys2Proof.Machine.execLdcoef idx val s
  | .setfirst first => Sys2Proof.Machine.execSetfirst first s
  | .detlast => Sys2Proof.Machine.execDetlast s
  | .cost ctx0 => Sys2Proof.Machine.execCost ctx0 s
  | .rdreg reg => Sys2Proof.Machine.execRdreg reg s
  | .ldprob band ctx val => Sys2Proof.Machine.execLdprob band ctx val s
  | .ldcostt band ctx level val => Sys2Proof.Machine.execLdcostt band ctx level val s

end Sys2Proof.Machine
end

