-- ==== Sys2Proof/Machine/Run.lean ====
section
/-! DEFINITION. How the block takes words from its ports and what the outside does to it: the prologue on a raw word
(60_exceptions.md R155), the interleaving (20_memory.md R52), the events (30_encoding.md R60, R62; 10_state.md R22;
70_reset_and_hazards.md R180). -/

namespace Sys2Proof.Machine

/-- One command word on the executing unit (60_exceptions.md R155). -/
def runWord (w : Word) (s : State) : Host.Outcome State Fault Refusal :=
  match decode s.cfg.numBands w with
  | .command i => exec i s
  | .illegalCmd => illegalWord s w .illegalCmd
  | .illegalOperand => illegalWord s w .illegalOperand

/-- The state with unit `k` executing and `ws` left on its port. -/
def State.accept (s : State) (k : Nat) (u : UnitState) (ws : List Word) : State :=
  { s with cur := k, units := s.units.set k { u with port := ws } }

/-- Unit `k` takes the word at the head of its port; a unit with no word holds its state (10_state.md R16,
60_exceptions.md R174). -/
def serve (k : Nat) (s : State) : Host.Outcome State Fault Refusal :=
  match s.units[k]? with
  | none => .next s
  | some u =>
    match u.port with
    | [] => .next s
    | w :: ws => runWord w (s.accept k u ws)

/-- The units whose port holds a word. -/
def State.waiting (s : State) : List Nat :=
  (List.range s.units.length).filter (fun k => (s.units[k]?.map (fun u => !u.port.isEmpty)).getD false)

/-- With no event pending: nothing to do, the one waiting unit, or a free choice among several (20_memory.md R52,
93_implementation_defined.md U14, log 8). -/
def serveWaiting (s : State) : Host.Outcome State Fault Refusal :=
  match s.waiting with
  | [] => .next s
  | [k] => serve k s
  | k :: ks =>
    serve ((k :: ks)[Config.arbiter s.draws % (k :: ks).length]?.getD k) { s with draws := s.draws + 1 }

/-- Reset abandons the commands in progress without effect: their words are gone (70_reset_and_hazards.md R180). -/
def State.abandon (s : State) (busy : List Nat) : State :=
  { s with units := s.units.mapIdx (fun k u => if k ∈ busy then { u with port := u.port.tail } else u) }

/-- What one event does. -/
def handleEvent (e : Event) (s : State) : Host.Outcome State Fault Refusal :=
  match e with
  | .grant k => serve k s
  | .present k w => .next { s with units := s.units.modify k (fun u => { u with port := u.port ++ [w] }) }
  | .drain k => .next { s with units := s.units.modify k (fun u => { u with responses := u.responses.tail }) }
  | .driveCap level => .next { s with cap := level }
  | .reset busy => .next (s.abandon busy).applyReset

/-- One step of the block: the next event, or a waiting command when there is none. -/
def advance (s : State) : Host.Outcome State Fault Refusal :=
  match s.events with
  | [] => serveWaiting s
  | e :: es => handleEvent e { s with events := es }

/-- The state in which the very next step takes word `w` on unit `cur`. -/
def State.placeWord (s : State) (w : Word) : State :=
  { s with
    units := s.units.modify s.cur (fun u => { u with port := w :: u.port })
    events := .grant s.cur :: s.events }

end Sys2Proof.Machine
end

