-- ==== Sys2Proof/Machine/Step.lean ====
section
/-! DEFINITION. The step function and the placing of one word (log 10). -/

namespace Sys2Proof.Machine

/-- One step of the block: one event, or one command taken and executed (20_memory.md R52). -/
def step (s : State) : Host.Outcome State Fault Refusal := advance s

/-- The state whose next step runs the word `w` of `nbits` bits on unit `cur`. -/
def State.withFetchWord (s : State) (nbits w : Nat) : State := s.placeWord (BitVec.ofNat 32 (w % 2 ^ nbits))

end Sys2Proof.Machine
end

