-- ==== Sys2Proof/Machine/Assembler.lean ====
section
/-! DEFINITION. The assembler's operand ranges (30_encoding.md R72), the pseudo-commands (R73), and executing a list of
commands one after the other on one unit. -/

namespace Sys2Proof.Machine

/-- An operand in 0..bound-1. -/
def inRange (bound : Nat) (v : Int) : Option (Fin bound) :=
  if h : 0 ≤ v ∧ v < (bound : Int) then some ⟨v.toNat, by omega⟩ else none

/-- The register numbers an assembler knows by name; `COEF[i]` is the number 16 + i (30_encoding.md R72). -/
def registerNamed (name : String) : Option Int :=
  match name with
  | "STATUS" => some 0
  | "FIRST" => some 1
  | "LAST" => some 2
  | "RESULT" => some 3
  | "FAULT" => some 4
  | "FINFO" => some 5
  | "STRAT" => some 6
  | "CAP" => some 7
  | "UNITID" => some 8
  | "PARAMS" => some 9
  | _ => none

/-- The command of a mnemonic and its operands in the order of 30_encoding.md R72; none for an operand outside its
range. -/
def assemble (numBands : Nat) (mnemonic : String) (operands : List Int) : Option Instr :=
  match mnemonic, operands with
  | "NOP", [] => some .nop
  | "INIT", [] => some .init
  | "CLRCOEF", [] => some .clrcoef
  | "LDCOEF", [idx, val] =>
    match inRange 16 idx with
    | some i => if -32768 ≤ val ∧ val ≤ 32767 then some (.ldcoef i (BitVec.ofInt 16 val)) else none
    | none => none
  | "SETFIRST", [first] => (inRange 16 first).map (fun f => .setfirst (BitVec.ofNat 4 f.val))
  | "DETLAST", [] => some .detlast
  | "COST", [ctx0] => (inRange 3 ctx0).map .cost
  | "RDREG", [reg] => ((inRange 64 reg).bind (fun r => regOfBits (BitVec.ofNat 6 r.val))).map .rdreg
  | "LDPROB", [band, ctx, val] =>
    match inRange 8 band, inRange 3 ctx, inRange 256 val with
    | some b, some c, some v => if b.val < numBands then some (.ldprob b c (BitVec.ofNat 8 v.val)) else none
    | _, _, _ => none
  | "LDCOSTT", [band, ctx, level, val] =>
    match inRange 8 band, inRange 3 ctx, inRange 68 level, inRange 65536 val with
    | some b, some c, some l, some v =>
      if b.val < numBands then some (.ldcostt b c l (BitVec.ofNat 16 v.val)) else none
    | _, _, _, _ => none
  | _, _ => none

/-- `LDBLOCK v0, ..., v15`: `CLRCOEF`, then `LDCOEF i, vi` for each nonzero `vi`, ascending (30_encoding.md R73). -/
def ldblock (v : Vector (BitVec 16) 16) : List Instr :=
  .clrcoef :: (allPositions.filter (fun i => decide (v[i] ≠ 0))).map (fun i => .ldcoef i v[i])

/-- `RDLAST` (30_encoding.md R73). -/
def rdlast : List Instr := [.rdreg .last]

/-- `RDCOST` (30_encoding.md R73). -/
def rdcost : List Instr := [.rdreg .result]

/-- `RDSTATUS` (30_encoding.md R73). -/
def rdstatus : List Instr := [.rdreg .status]

/-- `LDPROBROW band, p0, p1, p2` (30_encoding.md R73). -/
def ldprobrow (band : Band) (p0 p1 p2 : BitVec 8) : List Instr :=
  [.ldprob band 0 p0, .ldprob band 1 p1, .ldprob band 2 p2]

/-- Executing commands one after the other on the executing unit (10_state.md R16). -/
def execAll : List Instr → State → Host.Outcome State Fault Refusal
  | [], s => .next s
  | i :: is, s =>
    match exec i s with
    | .next t => execAll is t
    | .fault r => .fault r
    | .refused r => .refused r

end Sys2Proof.Machine
end

