-- ==== Sys2Proof/Safety.lean ====
section
/-! DEFINITION. What the claims are stated in: a healthy run (60_exceptions.md R161) and the invariants of a reachable
state (10_state.md R14, R19 to R21, R29; 20_memory.md R40; 60_exceptions.md R151, R153). -/

namespace Sys2Proof.Machine

/-- A unit with nothing latched (60_exceptions.md R161). -/
abbrev UnitState.healthy (u : UnitState) : Prop := u.faulted = false

/-- No unit of the block has latched a fault. -/
abbrev State.healthy (s : State) : Prop := ∀ u ∈ s.units, u.healthy

/-- `LASTV` = 1 implies that every coefficient has a value and that `LAST` is what the scan gives for the current
coefficients (10_state.md R29). -/
abbrev UnitState.lastMatches (u : UnitState) : Prop :=
  u.lastV = true → coefAllV u.coefV = true ∧ u.last.toInt = detectLast u.coef

/-- `LAST` is in -1..15: the patterns 10000 to 11110 never occur (10_state.md R14). -/
abbrev UnitState.lastInRange (u : UnitState) : Prop := -1 ≤ u.last.toInt ∧ u.last.toInt ≤ 15

/-- The fault registers are 0 while nothing is latched; a latched cause is one of 1..7 and its position one of 0..15
(10_state.md R19, R20; 60_exceptions.md R151, R153). -/
abbrev UnitState.faultRecord (u : UnitState) : Prop :=
  (u.faulted = false → u.fcause = 0 ∧ u.fpos = 0 ∧ u.finfo = 0) ∧
  (u.faulted = true → 1 ≤ u.fcause.toNat ∧ u.fcause.toNat ≤ 7 ∧ u.fpos.toNat < 16)

/-- What holds of a unit in every reachable state. -/
abbrev UnitState.Inv (u : UnitState) : Prop := u.lastMatches ∧ u.lastInRange ∧ u.faultRecord

/-- Both writable tables are in canonical form and hold entries of existing bands only (20_memory.md R40, R47). -/
abbrev State.tablesOk (s : State) : Prop :=
  Memory.wf s.prob ∧ Memory.wf s.costt ∧
  (∀ e ∈ s.prob, e.1 < 3 * s.cfg.numBands) ∧ (∀ e ∈ s.costt, e.1 < 204 * s.cfg.numBands)

/-- Once `INIT` has completed, `STRAT` holds one selection in both fields (43_strategy_system.md R131). -/
abbrev State.strategyConsistent (s : State) : Prop := s.initDone = true → s.selDet = s.selCost

/-- What holds of every reachable state. -/
abbrev State.Inv (s : State) : Prop :=
  s.cfg.Ok ∧ s.units.length = s.cfg.nUnits ∧ (∀ u ∈ s.units, u.Inv) ∧ s.tablesOk ∧ s.strategyConsistent

/-- The fault registers of two units are the same (60_exceptions.md R160). -/
def UnitState.sameFault (u v : UnitState) : Prop :=
  v.faulted = u.faulted ∧ v.fcause = u.fcause ∧ v.fpos = u.fpos ∧ v.finfo = u.finfo

/-- The coefficients and their flags are the same (10_state.md R10, R11). -/
def UnitState.sameCoefs (u v : UnitState) : Prop := v.coef = u.coef ∧ v.coefV = u.coefV

/-- `FIRST` and its flag are the same (10_state.md R13). -/
def UnitState.sameFirst (u v : UnitState) : Prop := v.first = u.first ∧ v.firstV = u.firstV

/-- `LAST` and its flag are the same (10_state.md R14). -/
def UnitState.sameLast (u v : UnitState) : Prop := v.last = u.last ∧ v.lastV = u.lastV

/-- `RESULT` and its flag are the same (10_state.md R15). -/
def UnitState.sameResult (u v : UnitState) : Prop := v.result = u.result ∧ v.resultV = u.resultV

/-- The port and the response channel are the same (30_encoding.md R60, R62). -/
def UnitState.sameChannels (u v : UnitState) : Prop := v.port = u.port ∧ v.responses = u.responses

/-- Configuration, strategy, inputs and the model's own fields are the same (10_state.md R28). -/
def State.sameShared (s t : State) : Prop :=
  t.cfg = s.cfg ∧ t.selDet = s.selDet ∧ t.selCost = s.selCost ∧ t.initDone = s.initDone ∧ t.cap = s.cap ∧
  t.cur = s.cur ∧ t.events = s.events ∧ t.draws = s.draws

/-- Every entry of the Probability Table reads the same (20_memory.md R44). -/
def State.sameProb (s t : State) : Prop := ∀ a, Memory.read t.prob a = Memory.read s.prob a

/-- Every entry of the Cost Table reads the same (20_memory.md R44). -/
def State.sameCostt (s t : State) : Prop := ∀ a, Memory.read t.costt a = Memory.read s.costt a

/-- Every unit but the executing one is the same (60_exceptions.md R163). -/
def State.sameOthers (s t : State) : Prop :=
  t.units.length = s.units.length ∧ ∀ k, k ≠ s.cur → t.units[k]? = s.units[k]?

/-- The next step is a reset (70_reset_and_hazards.md R180). -/
def State.resetsNext (s : State) : Prop := ∃ busy es, s.events = .reset busy :: es

/-- How many words wait on the ports of the block. -/
def State.waitingWords (s : State) : Nat := (s.units.map (fun u => u.port.length)).sum

/-- The context of the row that costs position `n`, said by position: `ctx0` at `first`, after it the bucket of the
coefficient before (42_cost_estimator.md R108). -/
def rowContext (ctx0 : Ctx) (first : Pos) (coef : Vector (BitVec 16) 16) (n : Pos) : Ctx :=
  if n.val ≤ first.val then ctx0 else bucket (mag coef[n.val - 1])

/-- The Cost Table entry that costs position `n` (42_cost_estimator.md R102, R108). -/
def rowEntry (s : State) (ctx0 : Ctx) (first : Pos) (coef : Vector (BitVec 16) 16) (n : Pos) : Option (BitVec 16) :=
  Memory.read s.costt
    (costtEntry (s.readBand n.castSucc) (rowContext ctx0 first coef n) (clamp (mag coef[n])))

/-- `LevelCost` at position `n` as a number, 0 for an entry without a value (42_cost_estimator.md R102). -/
def positionCost (s : State) (ctx0 : Ctx) (first : Pos) (coef : Vector (BitVec 16) 16) (n : Pos) : Nat :=
  (s.readLfc (mag coef[n])).toNat + ((rowEntry s ctx0 first coef n).map BitVec.toNat).getD 0

/-- The Probability Table entry of the starting row (42_cost_estimator.md R104). -/
def startEntry (s : State) (ctx0 : Ctx) (first : Pos) : Option (BitVec 8) :=
  Memory.read s.prob (probEntry (s.readBand first.castSucc) ctx0)

/-- The Probability Table entry of the terminating signal (42_cost_estimator.md R106). -/
def endEntry (s : State) (coef : Vector (BitVec 16) 16) (last : Pos) : Option (BitVec 8) :=
  Memory.read s.prob (probEntry (s.readBand last.succ) (bucket (mag coef[last])))

/-- The terminating term as a number (42_cost_estimator.md R106). -/
def endCost (s : State) (coef : Vector (BitVec 16) 16) (last : Pos) : Nat :=
  if last.val < 15 then ((endEntry s coef last).map (fun p => (s.readEcostNo p).toNat)).getD 0 else 0

/-- A unit ready for `COST`: nothing latched, `FIRST` and `LAST` with a value (42_cost_estimator.md R111). -/
abbrev UnitState.readyForCost (u : UnitState) : Prop :=
  u.faulted = false ∧ u.firstV = true ∧ u.lastV = true

/-- The promise of 42_cost_estimator.md R107: every position below `FIRST` holds zero. -/
abbrev UnitState.promiseKept (u : UnitState) : Prop := ∀ i : Pos, i.val < u.first.toNat → u.coef[i] = 0

/-- The registers of a unit after fault entry (60_exceptions.md R160). -/
def faultedWith (u : UnitState) (code : BitVec 4) (pos : BitVec 5) (w : Word) : UnitState :=
  { u with faulted := true, fcause := code, fpos := pos, finfo := w }

/-- The state in which the executing unit `u` has responded with `v` and nothing else happened (30_encoding.md R62). -/
def answered (s : State) (u : UnitState) (v : Word) : State :=
  s.setUnit { u with responses := u.responses ++ [v] }

/-- The state in which the executing unit `u` has latched a fault and nothing else happened (60_exceptions.md R160). -/
def latched (s : State) (u : UnitState) (code : BitVec 4) (pos : BitVec 5) (w : Word) : State :=
  s.setUnit (faultedWith u code pos w)

/-- A unit as reset leaves it: nothing with a value, nothing latched, the response channel empty (10_state.md R30). -/
def UnitState.noValue (u : UnitState) : Prop :=
  u.coefV = 0 ∧ u.firstV = false ∧ u.lastV = false ∧ u.resultV = false ∧ u.faulted = false ∧
  u.fcause = 0 ∧ u.fpos = 0 ∧ u.finfo = 0 ∧ u.responses = []

/-- The block as reset leaves it (10_state.md R30). -/
def State.noValue (s : State) : Prop :=
  (∀ u ∈ s.units, u.noValue) ∧ s.initDone = false ∧
  (∀ a, Memory.read s.prob a = none) ∧ (∀ a, Memory.read s.costt a = none)

end Sys2Proof.Machine
end

