-- ==== Sys2Proof/Certificates/Slice0/Obligations.lean ====
section
/-! DEFINITION. The statements for the provers, each a proposition about every state or every word. -/

open Sys2Proof Sys2Proof.Machine

/-! ### Encoding -/

/-- Decoding the word of a well-formed command gives it back, every operand at every value (30_encoding.md R61 to R65). -/
def Obligations.DecodeOfEncodeIsTheCommand : Prop :=
  ∀ (nb : Nat) (i : Instr), i.wf nb = true → decode nb (encode i) = .command i

/-- A word that decodes to a command is that command's only word, and the command is well formed (30_encoding.md R65). -/
def Obligations.CommandWordIsUnique : Prop :=
  ∀ (nb : Nat) (w : Word) (i : Instr), decode nb w = .command i → encode i = w ∧ i.wf nb = true

/-- The rows of the opcode map are disjoint (30_encoding.md R64). -/
def Obligations.OpcodeRowsAreDisjoint : Prop :=
  ∀ (w : Word) (a b : Opcode),
    w &&& opcodeMask a = opcodeMatch a → w &&& opcodeMask b = opcodeMatch b → a = b

/-- A word with `OPC` 0xA to 0xF raises `ILLEGAL_CMD` whatever its other bits (30_encoding.md R66). -/
def Obligations.ReservedOpcodesRaise : Prop :=
  ∀ (s : State) (u : UnitState) (opc : BitVec 4) (rest : BitVec 28), s.unit = some u → u.faulted = false →
    10 ≤ opc.toNat → runWord (opc ++ rest) s = .next (latched s u 1 0 (opc ++ rest))

/-- A 1 in a must-be-zero bit of the format raises `ILLEGAL_CMD` (30_encoding.md R61, R67). -/
def Obligations.MustBeZeroBitsRaise : Prop :=
  ∀ (s : State) (u : UnitState), s.unit = some u → u.faulted = false →
    (∀ (opc : BitVec 4) (m : BitVec 28), opc = 0 ∨ opc = 1 ∨ opc = 2 ∨ opc = 5 → m ≠ 0 →
      runWord (opc ++ m) s = .next (latched s u 1 0 (opc ++ m))) ∧
    (∀ (m : BitVec 8) (idx : BitVec 4) (val : BitVec 16), m ≠ 0 →
      runWord (0x3#4 ++ m ++ idx ++ val) s = .next (latched s u 1 0 (0x3#4 ++ m ++ idx ++ val))) ∧
    (∀ (m : BitVec 24) (first : BitVec 4), m ≠ 0 →
      runWord (0x4#4 ++ m ++ first) s = .next (latched s u 1 0 (0x4#4 ++ m ++ first))) ∧
    (∀ (m : BitVec 26) (ctx0 : BitVec 2), m ≠ 0 →
      runWord (0x6#4 ++ m ++ ctx0) s = .next (latched s u 1 0 (0x6#4 ++ m ++ ctx0))) ∧
    (∀ (m : BitVec 22) (reg : BitVec 6), m ≠ 0 →
      runWord (0x7#4 ++ m ++ reg) s = .next (latched s u 1 0 (0x7#4 ++ m ++ reg))) ∧
    (∀ (band : BitVec 3) (ctx : BitVec 2) (m : BitVec 15) (val : BitVec 8), m ≠ 0 →
      runWord (0x8#4 ++ band ++ ctx ++ m ++ val) s =
        .next (latched s u 1 0 (0x8#4 ++ band ++ ctx ++ m ++ val)))

/-- A reserved register number in `RDREG` raises `ILLEGAL_CMD` (30_encoding.md R69). -/
def Obligations.ReservedRegistersRaise : Prop :=
  ∀ (s : State) (u : UnitState) (reg : BitVec 6), s.unit = some u → u.faulted = false →
    (10 ≤ reg.toNat ∧ reg.toNat ≤ 15) ∨ 32 ≤ reg.toNat →
    runWord (0x7#4 ++ 0#22 ++ reg) s = .next (latched s u 1 0 (0x7#4 ++ 0#22 ++ reg))

/-- A reserved operand value raises `ILLEGAL_OPERAND` (30_encoding.md R70). -/
def Obligations.ReservedOperandsRaise : Prop :=
  ∀ (s : State) (u : UnitState), s.unit = some u → u.faulted = false →
    runWord (0x6#4 ++ 0#26 ++ 3#2) s = .next (latched s u 2 0 (0x6#4 ++ 0#26 ++ 3#2)) ∧
    (∀ (band : BitVec 3) (ctx : BitVec 2) (val : BitVec 8), s.cfg.numBands ≤ band.toNat ∨ ctx = 3 →
      runWord (0x8#4 ++ band ++ ctx ++ 0#15 ++ val) s =
        .next (latched s u 2 0 (0x8#4 ++ band ++ ctx ++ 0#15 ++ val))) ∧
    (∀ (band : BitVec 3) (ctx : BitVec 2) (level : BitVec 7) (val : BitVec 16),
      s.cfg.numBands ≤ band.toNat ∨ ctx = 3 ∨ 67 < level.toNat →
      runWord (0x9#4 ++ band ++ ctx ++ level ++ val) s =
        .next (latched s u 2 0 (0x9#4 ++ band ++ ctx ++ level ++ val)))

/-- The command words as the assembler's formulas give them (30_encoding.md R72). -/
def Obligations.CommandWordsFollowTheFormulas : Prop :=
  (encode .nop).toNat = 0x00000000 ∧ (encode .init).toNat = 0x10000000 ∧
  (encode .clrcoef).toNat = 0x20000000 ∧ (encode .detlast).toNat = 0x50000000 ∧
  (∀ (idx : Pos) (val : BitVec 16),
    ((encode (.ldcoef idx val)).toNat : Int) = 0x30000000 + idx.val * 2 ^ 16 + val.toInt % 2 ^ 16) ∧
  (∀ first : BitVec 4, (encode (.setfirst first)).toNat = 0x40000000 + first.toNat) ∧
  (∀ ctx0 : Ctx, (encode (.cost ctx0)).toNat = 0x60000000 + ctx0.val) ∧
  (∀ reg : Reg, (encode (.rdreg reg)).toNat = 0x70000000 + (regNumber reg).toNat) ∧
  (∀ (band : Band) (ctx : Ctx) (val : BitVec 8), (encode (.ldprob band ctx val)).toNat =
    0x80000000 + band.val * 2 ^ 25 + ctx.val * 2 ^ 23 + val.toNat) ∧
  (∀ (band : Band) (ctx : Ctx) (level : Level) (val : BitVec 16),
    (encode (.ldcostt band ctx level val)).toNat =
      0x90000000 + band.val * 2 ^ 25 + ctx.val * 2 ^ 23 + level.val * 2 ^ 16 + val.toNat)

/-- Words of 95_test_vectors.md section 2.1 decode to what it says; sanity. -/
def Obligations.ListedWordsDecode : Prop :=
  decode 8 0x00000000 = .command .nop ∧
  decode 8 0x10000000 = .command .init ∧
  decode 8 0x20000000 = .command .clrcoef ∧
  decode 8 0x3006FFBA = .command (.ldcoef 6 (BitVec.ofInt 16 (-70))) ∧
  decode 8 0x4000000F = .command (.setfirst 15) ∧
  decode 8 0x50000000 = .command .detlast ∧
  decode 8 0x60000002 = .command (.cost 2) ∧
  decode 8 0x7000001F = .command (.rdreg (.coef 15)) ∧
  decode 8 0x8300007C = .command (.ldprob 1 2 124) ∧
  decode 8 0x9A4313CB = .command (.ldcostt 5 0 67 5067) ∧
  decode 8 0xFFFFFFFF = .illegalCmd ∧
  decode 4 0x98000000 = .illegalOperand

/-- A word held in bytes is read little-endian, bits 7:0 at the lowest address (20_memory.md R48). -/
def Obligations.CommandBytesAreLittleEndian : Prop :=
  ∀ (nb : Nat) (w : Word) (rest : List Byte),
    decodeBytes nb (w.extractLsb' 0 8 :: w.extractLsb' 8 8 :: w.extractLsb' 16 8 :: w.extractLsb' 24 8 :: rest) =
      .word (decode nb w) rest

/-! ### Block load -/

/-- `NOP` (43_strategy_system.md R130): its one word is the all-zero word, and it changes nothing, on a faulted unit
too. -/
def Obligations.NopChangesNothing : Prop :=
  (∀ (nb : Nat) (m : BitVec 28), decode nb (0x0#4 ++ m) = if m = 0 then .command .nop else .illegalCmd) ∧
  ∀ (s : State) (u : UnitState), s.unit = some u → exec .nop s = .next s

/-- `CLRCOEF` (40_block_load.md R80): its word, what it writes, and that twice is the same as once. -/
def Obligations.ClrcoefZeroesTheBlock : Prop :=
  (∀ (nb : Nat) (m : BitVec 28), decode nb (0x2#4 ++ m) = if m = 0 then .command .clrcoef else .illegalCmd) ∧
  ∀ (s : State) (u : UnitState), s.unit = some u → u.faulted = false →
    ∃ t u', exec .clrcoef s = .next t ∧ t.unit = some u' ∧
      (∀ i : Pos, u'.coef[i] = 0 ∧ coefFlag u'.coefV i = true) ∧ u'.lastV = false ∧
      t = s.setUnit { u with coef := u'.coef, coefV := u'.coefV, lastV := false } ∧
      exec .clrcoef t = .next t

/-- `LDCOEF idx, val` (40_block_load.md R81): its words and what it writes. -/
def Obligations.LdcoefWritesOneCoefficient : Prop :=
  (∀ (nb : Nat) (m : BitVec 8) (idx : Pos) (val : BitVec 16),
    decode nb (0x3#4 ++ m ++ BitVec.ofNat 4 idx.val ++ val) =
      if m = 0 then .command (.ldcoef idx val) else .illegalCmd) ∧
  ∀ (s : State) (u : UnitState) (idx : Pos) (val : BitVec 16), s.unit = some u → u.faulted = false →
    ∃ t u', exec (.ldcoef idx val) s = .next t ∧ t.unit = some u' ∧
      u'.coef[idx].toInt = val.toInt ∧ coefFlag u'.coefV idx = true ∧ u'.lastV = false ∧
      (∀ j : Pos, j ≠ idx → u'.coef[j] = u.coef[j] ∧ coefFlag u'.coefV j = coefFlag u.coefV j) ∧
      t = s.setUnit { u with coef := u'.coef, coefV := u'.coefV, lastV := false }

/-- `SETFIRST first` (40_block_load.md R82): its words and what it writes. -/
def Obligations.SetfirstWritesFirst : Prop :=
  (∀ (nb : Nat) (m : BitVec 24) (first : BitVec 4),
    decode nb (0x4#4 ++ m ++ first) = if m = 0 then .command (.setfirst first) else .illegalCmd) ∧
  ∀ (s : State) (u : UnitState) (first : BitVec 4), s.unit = some u → u.faulted = false →
    exec (.setfirst first) s = .next (s.setUnit { u with first := first, firstV := true })

/-- The frame of `NOP`, `CLRCOEF`, `LDCOEF`, `SETFIRST`: they store to no table, touch no shared state and no other
unit, and leave every register of their own unit but those they write. -/
def Obligations.BlockCommandsFrame : Prop :=
  ∀ (i : Instr) (s t : State) (u u' : UnitState),
    (i = .nop ∨ i = .clrcoef ∨ (∃ idx val, i = .ldcoef idx val) ∨ ∃ first, i = .setfirst first) →
    exec i s = .next t → s.unit = some u → t.unit = some u' →
    s.sameShared t ∧ s.sameProb t ∧ s.sameCostt t ∧ s.sameOthers t ∧
    u.sameResult u' ∧ u.sameFault u' ∧ u.sameChannels u' ∧ u'.last = u.last ∧
    (i = .nop ∨ i = .clrcoef ∨ (∃ idx val, i = .ldcoef idx val) → u.sameFirst u') ∧
    (i = .nop ∨ (∃ first, i = .setfirst first) → u.sameCoefs u' ∧ u.sameLast u')

/-- `LDBLOCK`, `SETFIRST`, `DETLAST` leave the block loaded and ready for `COST` (30_encoding.md R73,
40_block_load.md R83). -/
def Obligations.LoadedBlockIsScanned : Prop :=
  ∀ (s : State) (u : UnitState) (v : Vector (BitVec 16) 16) (first : BitVec 4),
    s.unit = some u → u.faulted = false → s.initDone = true →
    ∃ t u', execAll (ldblock v ++ [.setfirst first, .detlast]) s = .next t ∧ t.unit = some u' ∧
      u'.coef = v ∧ u'.first = first ∧ u'.last.toInt = detectLast v ∧ u'.readyForCost ∧
      u'.responses = u.responses ++ [BitVec.ofInt 32 (detectLast v)]

/-! ### Scan Detector -/

/-- `detectLast` returns the greatest index of a nonzero coefficient, -1 if every coefficient is zero
(41_scan_detector.md R91). -/
def Obligations.DetectLastIsTheGreatestNonzero : Prop :=
  ∀ coef : Vector (BitVec 16) 16,
    (detectLast coef = -1 ∧ ∀ i : Pos, coef[i] = 0) ∨
    (∃ i : Pos, detectLast coef = (i.val : Int) ∧ coef[i] ≠ 0 ∧ ∀ j : Pos, i < j → coef[j] = 0)

/-- The scalar and the data-parallel Scan Detector agree with the function on every input (41_scan_detector.md R94). -/
def Obligations.DetectorsAgree : Prop :=
  ∀ coef : Vector (BitVec 16) 16,
    detectLastSeq coef = detectLast coef ∧ detectLastPar coef = detectLast coef

/-- A single nonzero coefficient is found where it is, and no coefficient below the result matters
(41_scan_detector.md R95). -/
def Obligations.LowerCoefficientsDoNotMatter : Prop :=
  detectLast (Vector.replicate 16 0) = -1 ∧
  (∀ (k : Pos) (x : BitVec 16), x ≠ 0 → detectLast ((Vector.replicate 16 0).set k x) = (k.val : Int)) ∧
  (∀ (coef : Vector (BitVec 16) 16) (j : Pos) (x : BitVec 16), (j.val : Int) < detectLast coef →
    detectLast (coef.set j x) = detectLast coef) ∧
  (∀ coef : Vector (BitVec 16) 16, detectLastSeq coef = detectLastPar coef)

/-- `DETLAST` (41_scan_detector.md R90): its word, its two faults in their order, and on a loaded block the scan of the
coefficients, whichever implementation is selected. -/
def Obligations.DetlastReturnsTheScan : Prop :=
  (∀ (nb : Nat) (m : BitVec 28), decode nb (0x5#4 ++ m) = if m = 0 then .command .detlast else .illegalCmd) ∧
  ∀ (s : State) (u : UnitState), s.unit = some u → u.faulted = false →
    (s.initDone = false → exec .detlast s = .next (latched s u 3 0 0x50000000)) ∧
    (s.initDone = true → ∀ i : Pos, coefFlag u.coefV i = false →
      (∀ j : Pos, j < i → coefFlag u.coefV j = true) →
      exec .detlast s = .next (latched s u 4 (BitVec.ofNat 5 i.val) 0x50000000)) ∧
    (s.initDone = true → (∀ i : Pos, coefFlag u.coefV i = true) →
      ∃ u', exec .detlast s = .next (s.setUnit u') ∧ u'.last.toInt = detectLast u.coef ∧
        u' = { u with last := u'.last, lastV := true,
                      responses := u.responses ++ [BitVec.ofInt 32 (detectLast u.coef)] })

/-! ### Cost Estimator -/

/-- `mag`, `bucket`, `clamp` (42_cost_estimator.md R101). -/
def Obligations.MagnitudeDoesNotWrap : Prop :=
  (∀ x : BitVec 16, (mag x : Int) = (if 0 ≤ x.toInt then x.toInt else -x.toInt) ∧ mag x ≤ 32768) ∧
  mag (BitVec.ofInt 16 (-32768)) = 32768 ∧
  (∀ v : Nat, (v = 0 → bucket v = 0) ∧ (v = 1 → bucket v = 1) ∧ (2 ≤ v → bucket v = 2)) ∧
  (∀ v : Nat, (v ≤ 67 → (clamp v).val = v) ∧ (67 < v → (clamp v).val = 67))

/-- `COST` of an empty block: the cost of "no nonzero coefficient" at the starting probability, and no Cost Table entry
is read (42_cost_estimator.md R104). -/
def Obligations.CostOfAnEmptyBlock : Prop :=
  ∀ (s : State) (u : UnitState) (ctx0 : Ctx) (p0 : BitVec 8),
    s.unit = some u → u.readyForCost → s.initDone = true → u.promiseKept → u.last.toInt < 0 →
    startEntry s ctx0 (firstPosition u.first) = some p0 →
    exec (.cost ctx0) s = .next (s.setUnit { u with
      result := (s.readEcostNo p0).setWidth 32, resultV := true,
      responses := u.responses ++ [(s.readEcostNo p0).setWidth 32] })

/-- `COST` of a non-empty block: base cost, the level cost of every position from `FIRST` to `LAST` under the row of
R108, and the terminating signal, exact (42_cost_estimator.md R100, R102, R103, R105, R106, R108, R109). -/
def Obligations.CostIsTheSumOfItsTerms : Prop :=
  ∀ (s : State) (u : UnitState) (ctx0 : Ctx) (p0 : BitVec 8) (last : Pos),
    s.unit = some u → u.readyForCost → s.initDone = true → u.promiseKept →
    u.last.toInt = (last.val : Int) →
    startEntry s ctx0 (firstPosition u.first) = some p0 →
    (∀ n ∈ scanRange (firstPosition u.first) last, mag u.coef[n] ≤ s.cfg.maxLevel ∧
      (rowEntry s ctx0 (firstPosition u.first) u.coef n).isSome = true) →
    (last.val < 15 → (endEntry s u.coef last).isSome = true) →
    ∃ total : BitVec 32,
      exec (.cost ctx0) s = .next (s.setUnit { u with
        result := total, resultV := true, responses := u.responses ++ [total] }) ∧
      total.toNat = (if ctx0 = 0 then (s.readEcostYes p0).toNat else 0) +
        ((scanRange (firstPosition u.first) last).map
          (positionCost s ctx0 (firstPosition u.first) u.coef)).sum +
        endCost s u.coef last

/-- No total exceeds 2228190, far below 2^32 (42_cost_estimator.md R109). -/
def Obligations.CostTotalIsBounded : Prop :=
  ∀ (s t : State) (u u' : UnitState) (ctx0 : Ctx), s.unit = some u → u.faulted = false →
    exec (.cost ctx0) s = .next t → t.unit = some u' → u'.faulted = false →
    u'.resultV = true ∧ u'.result.toNat ≤ 2228190

/-- Every fault `COST` can raise, in the order the spec tests them, each with its position and with nothing else written
(42_cost_estimator.md R111). -/
def Obligations.CostFaultsInOrder : Prop :=
  ∀ (s : State) (u : UnitState), s.unit = some u → u.faulted = false →
    (∀ (m : BitVec 26) (c : BitVec 2), m ≠ 0 →
      runWord (0x6#4 ++ m ++ c) s = .next (latched s u 1 0 (0x6#4 ++ m ++ c))) ∧
    runWord 0x60000003 s = .next (latched s u 2 0 0x60000003) ∧
    ∀ ctx0 : Ctx,
    (s.initDone = false → exec (.cost ctx0) s = .next (latched s u 3 0 (encode (.cost ctx0)))) ∧
    (s.initDone = true → u.firstV = false ∨ u.lastV = false →
      exec (.cost ctx0) s = .next (latched s u 4 0 (encode (.cost ctx0)))) ∧
    (s.initDone = true → u.firstV = true → u.lastV = true →
      (∀ i : Pos, i.val < u.first.toNat → u.coef[i] ≠ 0 → (∀ j : Pos, j < i → u.coef[j] = 0) →
        exec (.cost ctx0) s = .next (latched s u 6 (BitVec.ofNat 5 i.val) (encode (.cost ctx0)))) ∧
      (u.promiseKept →
        (startEntry s ctx0 (firstPosition u.first) = none →
          exec (.cost ctx0) s = .next (latched s u 5 (u.first.setWidth 5) (encode (.cost ctx0)))) ∧
        (∀ (last : Pos), (startEntry s ctx0 (firstPosition u.first)).isSome = true →
          u.last.toInt = (last.val : Int) →
          (∀ n ∈ scanRange (firstPosition u.first) last,
            (∀ m ∈ scanRange (firstPosition u.first) last, m < n → mag u.coef[m] ≤ s.cfg.maxLevel ∧
              (rowEntry s ctx0 (firstPosition u.first) u.coef m).isSome = true) →
            (s.cfg.maxLevel < mag u.coef[n] →
              exec (.cost ctx0) s = .next (latched s u 7 (BitVec.ofNat 5 n.val) (encode (.cost ctx0)))) ∧
            (mag u.coef[n] ≤ s.cfg.maxLevel → rowEntry s ctx0 (firstPosition u.first) u.coef n = none →
              exec (.cost ctx0) s = .next (latched s u 5 (BitVec.ofNat 5 n.val) (encode (.cost ctx0))))) ∧
          ((∀ n ∈ scanRange (firstPosition u.first) last, mag u.coef[n] ≤ s.cfg.maxLevel ∧
              (rowEntry s ctx0 (firstPosition u.first) u.coef n).isSome = true) →
            last.val < 15 → endEntry s u.coef last = none →
            exec (.cost ctx0) s =
              .next (latched s u 5 (BitVec.ofNat 5 (last.val + 1)) (encode (.cost ctx0)))))))

/-- A repeated `COST` answers the same integer (42_cost_estimator.md R112 (b)). -/
def Obligations.RepeatedCostIsTheSame : Prop :=
  ∀ (s t : State) (u u' : UnitState) (ctx0 : Ctx), s.unit = some u → u.faulted = false →
    exec (.cost ctx0) s = .next t → t.unit = some u' → u'.faulted = false →
    exec (.cost ctx0) t = .next (answered t u' u'.result)

/-- What the starting context changes in the cost of a non-empty block: the base cost and the first position's Cost
Table entry, nothing else (42_cost_estimator.md R112 (c)). -/
def Obligations.StartingContextChangesTwoTerms : Prop :=
  ∀ (s t0 tc : State) (u u0 uc : UnitState) (ctx0 : Ctx) (p0 : BitVec 8) (e0 ec : BitVec 16),
    s.unit = some u → u.faulted = false → u.lastMatches → 0 ≤ u.last.toInt → ctx0 ≠ 0 →
    exec (.cost 0) s = .next t0 → t0.unit = some u0 → u0.faulted = false →
    exec (.cost ctx0) s = .next tc → tc.unit = some uc → uc.faulted = false →
    startEntry s 0 (firstPosition u.first) = some p0 →
    rowEntry s 0 (firstPosition u.first) u.coef (firstPosition u.first) = some e0 →
    rowEntry s ctx0 (firstPosition u.first) u.coef (firstPosition u.first) = some ec →
    u0.result.toNat + ec.toNat = uc.result.toNat + (s.readEcostYes p0).toNat + e0.toNat

/-- The frame of `DETLAST`, `COST`, `RDREG`: they store to no table, touch no shared state and no other unit, and
leave every register of their own unit but `LAST` (`DETLAST`), `RESULT` (`COST`) and the fault registers. -/
def Obligations.ReadingCommandsFrame : Prop :=
  ∀ (i : Instr) (s t : State) (u u' : UnitState),
    (i = .detlast ∨ (∃ ctx0, i = .cost ctx0) ∨ ∃ reg, i = .rdreg reg) →
    exec i s = .next t → s.unit = some u → t.unit = some u' →
    s.sameShared t ∧ s.sameProb t ∧ s.sameCostt t ∧ s.sameOthers t ∧
    u.sameCoefs u' ∧ u.sameFirst u' ∧ u'.port = u.port ∧
    (i = .detlast ∨ (∃ reg, i = .rdreg reg) → u.sameResult u') ∧
    ((∃ ctx0, i = .cost ctx0) ∨ (∃ reg, i = .rdreg reg) → u.sameLast u') ∧
    (u'.faulted = false → u.sameFault u')

/-! ### Strategy Dispatch, registers -/

/-- `INIT` writes `select(CAP)` to both selections and sets `INIT_DONE`, together and nothing else; a second one changes
nothing, and one issued by a faulted unit initialises nothing (43_strategy_system.md R131, R135). -/
def Obligations.InitSelectsOnce : Prop :=
  (∀ (nb : Nat) (m : BitVec 28), decode nb (0x1#4 ++ m) = if m = 0 then .command .init else .illegalCmd) ∧
  ∀ (s : State) (u : UnitState), s.unit = some u →
    (u.faulted = false → ∃ t, exec .init s = .next t ∧
      t = { s with selDet := s.cap, selCost := s.cap, initDone := true } ∧ exec .init t = .next t) ∧
    (u.faulted = true → exec .init s = .next s)

/-- The selection is unobservable: whatever `SEL_DET` and `SEL_COST` hold, every command but `RDREG 6` leaves the same
state, but for those two bits themselves (43_strategy_system.md R132). -/
def Obligations.SelectionIsUnobservable : Prop :=
  ∀ (i : Instr) (s t : State) (a b : Bool), i ≠ .rdreg .strat → exec i s = .next t →
    ∃ t', exec i { s with selDet := a, selCost := b } = .next t' ∧
      { t' with selDet := t.selDet, selCost := t.selCost } = t

/-- `STATUS`, bit by bit, and 0 after reset (10_state.md R18). -/
def Obligations.StatusBits : Prop :=
  statusWord false UnitState.reset = 0 ∧
  ∀ (d : Bool) (u : UnitState),
    (statusWord d u).getLsbD 0 = u.faulted ∧ (statusWord d u).getLsbD 1 = d ∧
    (statusWord d u).getLsbD 2 = u.firstV ∧ (statusWord d u).getLsbD 3 = u.lastV ∧
    (statusWord d u).getLsbD 4 = u.resultV ∧
    ((statusWord d u).getLsbD 5 = true ↔ ∀ i : Pos, coefFlag u.coefV i = true) ∧
    (∀ k, 6 ≤ k → k ≤ 15 → (statusWord d u).getLsbD k = false) ∧
    (∀ i : Pos, (statusWord d u).getLsbD (16 + i.val) = coefFlag u.coefV i)

/-- The layouts of `FAULT`, `STRAT`, `PARAMS` as numbers (10_state.md R19, R21, R24). -/
def Obligations.FaultStratParamsLayout : Prop :=
  (∀ u : UnitState, (faultWord u).toNat = u.fpos.toNat * 2 ^ 4 + u.fcause.toNat) ∧
  (∀ d c : Bool, (stratWord d c).toNat = c.toNat * 2 + d.toNat) ∧
  (∀ c : Config, (paramsWord c).toNat =
    (c.nUnits % 256) * 2 ^ 20 + (c.numBands % 16) * 2 ^ 16 + c.maxLevel % 65536)

/-- The register map (10_state.md R25): each number's register, its value, when it has one, and which registers a faulted
unit answers. -/
def Obligations.RegisterMap : Prop :=
  (∀ b : BitVec 6, regOfBits b =
    if h : b.toNat < 10 then
      some ([Reg.status, .first, .last, .result, .fault, .finfo, .strat, .cap, .unitId, .params][b.toNat])
    else if h : 16 ≤ b.toNat ∧ b.toNat < 32 then some (.coef ⟨b.toNat - 16, by omega⟩) else none) ∧
  (∀ reg : Reg, readableWhileFaulted reg = true ↔ (regNumber reg).toNat ∈ [0, 4, 5, 7, 8, 9]) ∧
  ∀ (s : State) (u : UnitState),
    regValue s u .status = some (statusWord s.initDone u) ∧
    regValue s u .first = (if u.firstV then some (BitVec.ofNat 32 u.first.toNat) else none) ∧
    regValue s u .last = (if u.lastV then some (BitVec.ofInt 32 u.last.toInt) else none) ∧
    regValue s u .result = (if u.resultV then some u.result else none) ∧
    regValue s u .fault = some (faultWord u) ∧
    regValue s u .finfo = some u.finfo ∧
    regValue s u .strat = (if s.initDone then some (stratWord s.selDet s.selCost) else none) ∧
    regValue s u .cap = some (if s.cap then 1 else 0) ∧
    regValue s u .unitId = some (BitVec.ofNat 32 s.cur) ∧
    regValue s u .params = some (paramsWord s.cfg) ∧
    (∀ i : Pos, regValue s u (.coef i) =
      if coefFlag u.coefV i then some (BitVec.ofInt 32 u.coef[i].toInt) else none)

/-- `RDREG reg` (43_strategy_system.md R133): its words; on a running unit the register's value or `UNWRITTEN_STATE` at
position 0; on a faulted unit an answer for registers 0, 4, 5, 7, 8, 9 and nothing for the rest. -/
def Obligations.RdregAnswersTheRegister : Prop :=
  (∀ (nb : Nat) (m : BitVec 22) (r : BitVec 6), decode nb (0x7#4 ++ m ++ r) =
    if m = 0 then (match regOfBits r with | some reg => .command (.rdreg reg) | none => .illegalCmd)
    else .illegalCmd) ∧
  ∀ (s : State) (u : UnitState) (reg : Reg), s.unit = some u →
    (u.faulted = false → ∀ v, regValue s u reg = some v → exec (.rdreg reg) s = .next (answered s u v)) ∧
    (u.faulted = false → regValue s u reg = none →
      exec (.rdreg reg) s = .next (latched s u 4 0 (0x70000000 + (regNumber reg).setWidth 32))) ∧
    (u.faulted = true → (regNumber reg).toNat ∈ [0, 4, 5, 7, 8, 9] →
      ∃ v, regValue s u reg = some v ∧ exec (.rdreg reg) s = .next (answered s u v)) ∧
    (u.faulted = true → (regNumber reg).toNat ∉ [0, 4, 5, 7, 8, 9] → exec (.rdreg reg) s = .next s)

/-! ### Table load -/

/-- `LDPROB` (44_table_load.md R140): its words; it writes one entry of the Probability Table, which every unit sees, and
nothing else. A word with a band at or above `NUM_BANDS` is no command; that the meaning faults on such a band too, and
writes nothing, is the model's choice (log 13). -/
def Obligations.LdprobWritesOneEntry : Prop :=
  (∀ (nb : Nat) (band : Band) (c : BitVec 2) (m : BitVec 15) (val : BitVec 8),
    decode nb (0x8#4 ++ BitVec.ofNat 3 band.val ++ c ++ m ++ val) =
      if m ≠ 0 then .illegalCmd
      else if h : band.val < nb ∧ c.toNat < 3 then .command (.ldprob band ⟨c.toNat, h.2⟩ val)
      else .illegalOperand) ∧
  ∀ (s : State) (u : UnitState) (band : Band) (ctx : Ctx) (val : BitVec 8), s.unit = some u → u.faulted = false →
    (band.val < s.cfg.numBands → ∃ t, exec (.ldprob band ctx val) s = .next t ∧
      Memory.read t.prob (probEntry band ctx) = some val ∧
      (∀ a, a ≠ probEntry band ctx → Memory.read t.prob a = Memory.read s.prob a) ∧
      t = { s with prob := t.prob }) ∧
    (s.cfg.numBands ≤ band.val →
      exec (.ldprob band ctx val) s = .next (latched s u 2 0 (encode (.ldprob band ctx val))))

/-- `LDCOSTT` (44_table_load.md R141): its words; it writes one entry of the Cost Table, which every unit sees, and
nothing else. A word with a band at or above `NUM_BANDS` is no command; that the meaning faults on such a band too, and
writes nothing, is the model's choice (log 13). -/
def Obligations.LdcosttWritesOneEntry : Prop :=
  (∀ (nb : Nat) (band : Band) (c : BitVec 2) (l : BitVec 7) (val : BitVec 16),
    decode nb (0x9#4 ++ BitVec.ofNat 3 band.val ++ c ++ l ++ val) =
      if h : band.val < nb ∧ c.toNat < 3 ∧ l.toNat < 68 then
        .command (.ldcostt band ⟨c.toNat, h.2.1⟩ ⟨l.toNat, h.2.2⟩ val)
      else .illegalOperand) ∧
  ∀ (s : State) (u : UnitState) (band : Band) (ctx : Ctx) (level : Level) (val : BitVec 16),
    s.unit = some u → u.faulted = false →
    (band.val < s.cfg.numBands → ∃ t, exec (.ldcostt band ctx level val) s = .next t ∧
      Memory.read t.costt (costtEntry band ctx level) = some val ∧
      (∀ a, a ≠ costtEntry band ctx level → Memory.read t.costt a = Memory.read s.costt a) ∧
      t = { s with costt := t.costt }) ∧
    (s.cfg.numBands ≤ band.val →
      exec (.ldcostt band ctx level val) s = .next (latched s u 2 0 (encode (.ldcostt band ctx level val))))

/-- The frame of `INIT`, `LDPROB`, `LDCOSTT`: without a fault no unit changes at all, and each leaves all shared state
but what it writes; the stored entry is the one its operands name. -/
def Obligations.SharedWritersFrame : Prop :=
  ∀ (s t : State) (u' : UnitState), t.unit = some u' → u'.faulted = false →
    (exec .init s = .next t → t.units = s.units ∧ s.sameProb t ∧ s.sameCostt t ∧ t.cfg = s.cfg ∧
      t.cap = s.cap ∧ t.cur = s.cur ∧ t.events = s.events ∧ t.draws = s.draws) ∧
    (∀ band ctx val, exec (.ldprob band ctx val) s = .next t → t.units = s.units ∧ s.sameShared t ∧
      s.sameCostt t ∧ ∀ a, a ≠ probEntry band ctx → Memory.read t.prob a = Memory.read s.prob a) ∧
    (∀ band ctx level val, exec (.ldcostt band ctx level val) s = .next t → t.units = s.units ∧
      s.sameShared t ∧ s.sameProb t ∧
      ∀ a, a ≠ costtEntry band ctx level → Memory.read t.costt a = Memory.read s.costt a)

/-! ### Faults -/

/-- Faults are precise and stay on their unit: a word that latches a fault, legal or not, writes the four fault
registers of its own unit and nothing else, itself in `FINFO` and a cause in 1..7 (60_exceptions.md R160, R163). -/
def Obligations.FaultsArePrecise : Prop :=
  ∀ (w : Word) (s t : State) (u u' : UnitState), runWord w s = .next t → s.unit = some u → u.faulted = false →
    t.unit = some u' → u'.faulted = true →
    t = latched s u u'.fcause u'.fpos w ∧
    1 ≤ u'.fcause.toNat ∧ u'.fcause.toNat ≤ 7 ∧ u'.fpos.toNat < 16

/-- A command raises only the faults the spec lists for it: `NOP`, `INIT`, `CLRCOEF`, `LDCOEF`, `SETFIRST` none,
`DETLAST` codes 3 and 4, `COST` 3 to 7, `RDREG` 4, the table loads 2 (60_exceptions.md R151). -/
def Obligations.CommandsRaiseOnlyTheirFaults : Prop :=
  ∀ (i : Instr) (s t : State) (u u' : UnitState), exec i s = .next t → s.unit = some u → u.faulted = false →
    t.unit = some u' → u'.faulted = true →
    (i = .detlast ∧ u'.fcause.toNat ∈ [3, 4]) ∨
    ((∃ ctx0, i = .cost ctx0) ∧ u'.fcause.toNat ∈ [3, 4, 5, 6, 7]) ∨
    ((∃ reg, i = .rdreg reg) ∧ u'.fcause = 4 ∧ u'.fpos = 0) ∨
    (((∃ band ctx val, i = .ldprob band ctx val) ∨ ∃ band ctx level val, i = .ldcostt band ctx level val) ∧
      u'.fcause = 2 ∧ u'.fpos = 0)

/-- The common prologue of every word (60_exceptions.md R155): a faulted unit answers `RDREG` of registers 0, 4, 5, 7, 8,
9 and drops every other word, an illegal one too; another unit faults on a word that is no command and executes a word
that is one. -/
def Obligations.PrologueOfEveryWord : Prop :=
  ∀ (s : State) (u : UnitState) (w : Word), s.unit = some u →
    (u.faulted = true →
      (∀ reg : Reg, decode s.cfg.numBands w = .command (.rdreg reg) → (regNumber reg).toNat ∈ [0, 4, 5, 7, 8, 9] →
        ∃ v, regValue s u reg = some v ∧ runWord w s = .next (answered s u v)) ∧
      ((∀ reg : Reg, decode s.cfg.numBands w = .command (.rdreg reg) →
          (regNumber reg).toNat ∉ [0, 4, 5, 7, 8, 9]) → runWord w s = .next s)) ∧
    (u.faulted = false →
      (decode s.cfg.numBands w = .illegalCmd → runWord w s = .next (latched s u 1 0 w)) ∧
      (decode s.cfg.numBands w = .illegalOperand → runWord w s = .next (latched s u 2 0 w)) ∧
      (∀ i, decode s.cfg.numBands w = .command i → runWord w s = exec i s))

/-- Nothing but reset clears a fault or changes its record or the unit's registers, and reset clears everything
(60_exceptions.md R162). -/
def Obligations.FaultIsSticky : Prop :=
  ∀ (s t : State) (k : Nat) (u : UnitState), step s = .next t → s.units[k]? = some u → u.faulted = true →
    ∃ u', t.units[k]? = some u' ∧
      (¬ s.resetsNext →
        u.sameFault u' ∧ u.sameCoefs u' ∧ u.sameFirst u' ∧ u.sameLast u' ∧ u.sameResult u') ∧
      (s.resetsNext → t.noValue)

/-! ### The machine -/

/-- A step takes the word at the head of the serving unit's port, legal or not, through the prologue
(60_exceptions.md R155), and so runs the command it decodes to: on a grant, or without an event when it is the only unit
with a word (the model's choices, log 6, log 8). -/
def Obligations.StepRunsTheDecodedCommand : Prop :=
  ∀ (s s' : State) (k : Nat) (u : UnitState) (w : Word) (ws : List Word),
    s.units[k]? = some u → u.port = w :: ws →
    (∃ es, s.events = .grant k :: es ∧
      s' = { s with events := es, cur := k, units := s.units.set k { u with port := ws } }) ∨
    (s.events = [] ∧ (∀ (j : Nat) (v : UnitState), s.units[j]? = some v → j ≠ k → v.port = []) ∧
      s' = { s with cur := k, units := s.units.set k { u with port := ws } }) →
    step s = runWord w s' ∧ ∀ i, decode s.cfg.numBands w = .command i → step s = exec i s'

/-- A placed word is what the next step runs (how a word is placed is the model's choice, log 10). -/
def Obligations.PlacedWordRunsNext : Prop :=
  ∀ (s : State) (u : UnitState) (i : Instr), s.unit = some u → i.wf s.cfg.numBands = true →
    step (s.withFetchWord 32 (encode i).toNat) = exec i s

/-- Every step answers a next state: no third outcome, no hang (60_exceptions.md R150, 70_reset_and_hazards.md R197). -/
def Obligations.EveryStepCompletes : Prop := ∀ s : State, ∃ t, step s = .next t

/-- With no event pending, a step holds the state if no word waits (60_exceptions.md R174); else it takes the word at
the head of one unit's port through the prologue (60_exceptions.md R155, 70_reset_and_hazards.md R197) and answers a next
state with one word fewer waiting. That events come first is the model's choice (log 6); which of several units it is
stays free, and the count of such choices goes up by one (log 8). -/
def Obligations.WaitingWordsAreTaken : Prop :=
  ∀ s : State, s.events = [] →
    (s.waitingWords = 0 → step s = .next s) ∧
    (0 < s.waitingWords → ∃ t, step s = .next t ∧ t.waitingWords + 1 = s.waitingWords) ∧
    (0 < s.waitingWords → ∃ (k : Nat) (u : UnitState) (w : Word) (ws : List Word) (draws : Nat),
      s.units[k]? = some u ∧ u.port = w :: ws ∧
      step s = runWord w { s with draws := draws, cur := k, units := s.units.set k { u with port := ws } } ∧
      ((∀ j v, s.units[j]? = some v → j ≠ k → v.port = []) → draws = s.draws) ∧
      ((∃ j v, s.units[j]? = some v ∧ j ≠ k ∧ v.port ≠ []) → draws = s.draws + 1))

/-- A step that serves unit `k` changes no other unit (20_memory.md R52, 60_exceptions.md R163, R173);
the grant is the model's form of the interleaving (log 6). -/
def Obligations.ServingTouchesOneUnit : Prop :=
  ∀ (s t : State) (k j : Nat) (es : List Event), s.events = .grant k :: es → step s = .next t → j ≠ k →
    t.units[j]? = s.units[j]?

/-- Configuration is written by nothing, not by reset either (10_state.md R28, 70_reset_and_hazards.md R180). -/
def Obligations.ConfigurationIsConstant : Prop :=
  ∀ s t : State, step s = .next t → t.cfg = s.cfg ∧ t.units.length = s.units.length

/-- Without reset, `INIT_DONE` and the valid flags of the tables stay set (10_state.md R21, 20_memory.md R42). -/
def Obligations.SharedFlagsStaySet : Prop :=
  ∀ s t : State, ¬ s.resetsNext → step s = .next t →
    (s.initDone = true → t.initDone = true) ∧
    (∀ a, (Memory.read s.prob a).isSome = true → (Memory.read t.prob a).isSome = true) ∧
    (∀ a, (Memory.read s.costt a).isSome = true → (Memory.read t.costt a).isSome = true)

/-- What reset leaves, in the values the spec gives (10_state.md R30), at power-on under any configuration and, by the
reset event, in any state, the configuration unaffected. -/
def Obligations.ResetLeavesNoValue : Prop :=
  (∀ (c : Config) (cap : Bool), (State.initial c cap).noValue ∧ (State.initial c cap).cfg = c ∧
    (State.initial c cap).units.length = c.nUnits) ∧
  ∀ (s : State) (busy : List Nat) (es : List Event), s.events = .reset busy :: es →
    ∃ t, step s = .next t ∧ t.noValue ∧ t.cfg = s.cfg ∧ t.units.length = s.units.length

/-- The host's side: a presented word joins the end of its unit's port, a drained response is the oldest one, the level
driven on `CAP` is what `CAP` holds, and a reset takes from a port the word of an abandoned command and no other
(30_encoding.md R60, R62; 10_state.md R22; 70_reset_and_hazards.md R180; that it keeps the others is log 2). -/
def Obligations.HostEventsReachTheirUnit : Prop :=
  ∀ (s : State) (k : Nat) (u : UnitState) (es : List Event), s.units[k]? = some u →
    (∀ w, s.events = .present k w :: es → step s =
      .next { s with events := es, units := s.units.set k { u with port := u.port ++ [w] } }) ∧
    (∀ v vs, s.events = .drain k :: es → u.responses = v :: vs → step s =
      .next { s with events := es, units := s.units.set k { u with responses := vs } }) ∧
    (∀ level, s.events = .driveCap level :: es → step s = .next { s with events := es, cap := level }) ∧
    (∀ busy, s.events = .reset busy :: es → ∃ t u', step s = .next t ∧ t.units[k]? = some u' ∧
      u'.port = if k ∈ busy then u.port.tail else u.port)

/-- The invariant of a reachable state holds after reset, under every configuration the spec allows. -/
def Obligations.ResetMeetsTheInvariant : Prop :=
  State.reset.Inv ∧ ∀ (c : Config) (cap : Bool), c.Ok → (State.initial c cap).Inv

/-- Every step keeps the invariant: the tables' canonical form and bounds, `LAST` in range and true of the current
coefficients (10_state.md R14, R29), a consistent fault record (R19, R20), one strategy (43_strategy_system.md R131).
The tables' form as lists is the model's (log 15). -/
def Obligations.StepKeepsTheInvariant : Prop := ∀ s t : State, s.Inv → step s = .next t → t.Inv

/-- Two units race `INIT` against `DETLAST` (95_test_vectors.md P4): both orders are admitted, and each gives its own
outcome. The grants are the model's form of the interleaving (log 6). -/
def Obligations.InitRaceHasBothOutcomes : Prop :=
  ∀ (s : State) (u0 u1 : UnitState) (ws0 ws1 : List Word) (es : List Event),
    s.units[0]? = some u0 → s.units[1]? = some u1 → u0.port = 0x10000000 :: ws0 → u1.port = 0x50000000 :: ws1 →
    u0.faulted = false → u1.faulted = false → s.initDone = false → (∀ i : Pos, coefFlag u1.coefV i = true) →
    (s.events = .grant 0 :: .grant 1 :: es → ∃ m t v, step s = .next m ∧ step m = .next t ∧
      t.units[1]? = some v ∧ v.faulted = false ∧ v.last.toInt = detectLast u1.coef ∧ t.initDone = true) ∧
    (s.events = .grant 1 :: .grant 0 :: es → ∃ m t v, step s = .next m ∧ step m = .next t ∧
      t.units[1]? = some v ∧ v.faulted = true ∧ v.fcause = 3 ∧ v.finfo = 0x50000000 ∧ t.initDone = true)
end

