-- ==== Sys2Proof/Laws/Memory.lean ====
section
/-! SUPPORT. Laws of the writable tables: reads after writes, and the canonical form every operation keeps. -/

namespace Sys2Proof.Machine

variable {width : Nat}

@[simp] theorem read_write_same (m : Memory width) (i : Nat) (x : BitVec width) :
    Memory.read (Memory.write m i x) i = some x := by
  induction m with
  | nil => simp [Memory.write, Memory.read]
  | cons e m ih =>
    obtain ⟨k, v⟩ := e
    simp only [Memory.write]
    split
    · simp [Memory.read]
    · split
      · simp [Memory.read]
      · simp [Memory.read, ih, Ne.symm ‹¬ i = k›]

theorem read_write_other (m : Memory width) {i j : Nat} (x : BitVec width) (h : j ≠ i) :
    Memory.read (Memory.write m i x) j = Memory.read m j := by
  induction m with
  | nil => simp [Memory.write, Memory.read, h.symm]
  | cons e m ih =>
    obtain ⟨k, v⟩ := e
    simp only [Memory.write]
    split
    · simp [Memory.read, h.symm]
    · split
      · subst_vars; simp [Memory.read, h.symm]
      · simp [Memory.read, ih]

/-- The entries of a written table are the written one and old ones. -/
theorem mem_write (m : Memory width) (i : Nat) (x : BitVec width) (e : Nat × BitVec width)
    (h : e ∈ Memory.write m i x) : e = (i, x) ∨ e ∈ m := by
  induction m with
  | nil => simpa [Memory.write] using h
  | cons d m ih =>
    obtain ⟨k, v⟩ := d
    simp only [Memory.write] at h
    split at h
    · simpa using h
    · split at h
      · simp only [List.mem_cons] at h ⊢
        tauto
      · simp only [List.mem_cons] at h ⊢
        rcases h with h | h
        · tauto
        · rcases ih h with h | h <;> tauto

/-- Writing an entry keeps the canonical form (20_memory.md R44). -/
theorem write_wf (m : Memory width) (i : Nat) (x : BitVec width) (h : Memory.wf m) :
    Memory.wf (Memory.write m i x) := by
  induction m with
  | nil => simp [Memory.write]
  | cons d m ih =>
    obtain ⟨k, v⟩ := d
    have hm := List.pairwise_cons.mp h
    simp only [Memory.write]
    split
    · rename_i hik
      refine List.pairwise_cons.mpr ⟨fun e he => ?_, h⟩
      rcases List.mem_cons.mp he with rfl | he
      · exact hik
      · exact hik.trans (hm.1 e he)
    · split
      · rename_i hik
        exact List.pairwise_cons.mpr ⟨fun e he => hik ▸ hm.1 e he, hm.2⟩
      · rename_i h1 h2
        refine List.pairwise_cons.mpr ⟨fun e he => ?_, ih hm.2⟩
        rcases mem_write m i x e he with rfl | he
        · show k < i
          omega
        · exact hm.1 e he

theorem reset_tables_wf (c : Config) (cap : Bool) :
    Memory.wf (State.initial c cap).prob ∧ Memory.wf (State.initial c cap).costt := by
  simp [State.initial]

theorem writeProb_wf (s : State) (b : Band) (c : Ctx) (v : BitVec 8) (h : Memory.wf s.prob) :
    Memory.wf (s.writeProb b c v).prob := write_wf _ _ _ h

theorem writeCostt_wf (s : State) (b : Band) (c : Ctx) (l : Level) (v : BitVec 16) (h : Memory.wf s.costt) :
    Memory.wf (s.writeCostt b c l v).costt := write_wf _ _ _ h

/-- Distinct entries of the Probability Table have distinct numbers (20_memory.md R47). -/
theorem probEntry_injective {b b' : Band} {c c' : Ctx} (h : probEntry b c = probEntry b' c') : b = b' ∧ c = c' := by
  simp only [probEntry, Fin.ext_iff] at h ⊢
  omega

/-- Distinct entries of the Cost Table have distinct numbers (20_memory.md R47). -/
theorem costtEntry_injective {b b' : Band} {c c' : Ctx} {l l' : Level}
    (h : costtEntry b c l = costtEntry b' c' l') : b = b' ∧ c = c' ∧ l = l' := by
  simp only [costtEntry, Fin.ext_iff] at h ⊢
  omega

end Sys2Proof.Machine
end

