-- ==== Sys2Proof/Laws/State.lean ====
section
/-! SUPPORT. One lemma per field per update of a unit and of the state; all hold by rfl. -/

namespace Sys2Proof.Machine

@[simp] theorem setUnit_cfg (s : State) (v : UnitState) : (s.setUnit v).cfg = s.cfg := rfl
@[simp] theorem setUnit_units (s : State) (v : UnitState) : (s.setUnit v).units = s.units.set s.cur v := rfl
@[simp] theorem setUnit_prob (s : State) (v : UnitState) : (s.setUnit v).prob = s.prob := rfl
@[simp] theorem setUnit_costt (s : State) (v : UnitState) : (s.setUnit v).costt = s.costt := rfl
@[simp] theorem setUnit_selDet (s : State) (v : UnitState) : (s.setUnit v).selDet = s.selDet := rfl
@[simp] theorem setUnit_selCost (s : State) (v : UnitState) : (s.setUnit v).selCost = s.selCost := rfl
@[simp] theorem setUnit_initDone (s : State) (v : UnitState) : (s.setUnit v).initDone = s.initDone := rfl
@[simp] theorem setUnit_cap (s : State) (v : UnitState) : (s.setUnit v).cap = s.cap := rfl
@[simp] theorem setUnit_cur (s : State) (v : UnitState) : (s.setUnit v).cur = s.cur := rfl
@[simp] theorem setUnit_events (s : State) (v : UnitState) : (s.setUnit v).events = s.events := rfl
@[simp] theorem setUnit_draws (s : State) (v : UnitState) : (s.setUnit v).draws = s.draws := rfl

@[simp] theorem writeProb_cfg (s : State) (b : Band) (c : Ctx) (v : BitVec 8) : (s.writeProb b c v).cfg = s.cfg := rfl
@[simp] theorem writeProb_units (s : State) (b : Band) (c : Ctx) (v : BitVec 8) : (s.writeProb b c v).units = s.units := rfl
@[simp] theorem writeProb_prob (s : State) (b : Band) (c : Ctx) (v : BitVec 8) : (s.writeProb b c v).prob = Memory.write s.prob (probEntry b c) v := rfl
@[simp] theorem writeProb_costt (s : State) (b : Band) (c : Ctx) (v : BitVec 8) : (s.writeProb b c v).costt = s.costt := rfl
@[simp] theorem writeProb_selDet (s : State) (b : Band) (c : Ctx) (v : BitVec 8) : (s.writeProb b c v).selDet = s.selDet := rfl
@[simp] theorem writeProb_selCost (s : State) (b : Band) (c : Ctx) (v : BitVec 8) : (s.writeProb b c v).selCost = s.selCost := rfl
@[simp] theorem writeProb_initDone (s : State) (b : Band) (c : Ctx) (v : BitVec 8) : (s.writeProb b c v).initDone = s.initDone := rfl
@[simp] theorem writeProb_cap (s : State) (b : Band) (c : Ctx) (v : BitVec 8) : (s.writeProb b c v).cap = s.cap := rfl
@[simp] theorem writeProb_cur (s : State) (b : Band) (c : Ctx) (v : BitVec 8) : (s.writeProb b c v).cur = s.cur := rfl
@[simp] theorem writeProb_events (s : State) (b : Band) (c : Ctx) (v : BitVec 8) : (s.writeProb b c v).events = s.events := rfl
@[simp] theorem writeProb_draws (s : State) (b : Band) (c : Ctx) (v : BitVec 8) : (s.writeProb b c v).draws = s.draws := rfl

@[simp] theorem writeCostt_cfg (s : State) (b : Band) (c : Ctx) (l : Level) (v : BitVec 16) : (s.writeCostt b c l v).cfg = s.cfg := rfl
@[simp] theorem writeCostt_units (s : State) (b : Band) (c : Ctx) (l : Level) (v : BitVec 16) : (s.writeCostt b c l v).units = s.units := rfl
@[simp] theorem writeCostt_prob (s : State) (b : Band) (c : Ctx) (l : Level) (v : BitVec 16) : (s.writeCostt b c l v).prob = s.prob := rfl
@[simp] theorem writeCostt_costt (s : State) (b : Band) (c : Ctx) (l : Level) (v : BitVec 16) : (s.writeCostt b c l v).costt = Memory.write s.costt (costtEntry b c l) v := rfl
@[simp] theorem writeCostt_selDet (s : State) (b : Band) (c : Ctx) (l : Level) (v : BitVec 16) : (s.writeCostt b c l v).selDet = s.selDet := rfl
@[simp] theorem writeCostt_selCost (s : State) (b : Band) (c : Ctx) (l : Level) (v : BitVec 16) : (s.writeCostt b c l v).selCost = s.selCost := rfl
@[simp] theorem writeCostt_initDone (s : State) (b : Band) (c : Ctx) (l : Level) (v : BitVec 16) : (s.writeCostt b c l v).initDone = s.initDone := rfl
@[simp] theorem writeCostt_cap (s : State) (b : Band) (c : Ctx) (l : Level) (v : BitVec 16) : (s.writeCostt b c l v).cap = s.cap := rfl
@[simp] theorem writeCostt_cur (s : State) (b : Band) (c : Ctx) (l : Level) (v : BitVec 16) : (s.writeCostt b c l v).cur = s.cur := rfl
@[simp] theorem writeCostt_events (s : State) (b : Band) (c : Ctx) (l : Level) (v : BitVec 16) : (s.writeCostt b c l v).events = s.events := rfl
@[simp] theorem writeCostt_draws (s : State) (b : Band) (c : Ctx) (l : Level) (v : BitVec 16) : (s.writeCostt b c l v).draws = s.draws := rfl

@[simp] theorem setStrategy_cfg (s : State) : (s.setStrategy).cfg = s.cfg := rfl
@[simp] theorem setStrategy_units (s : State) : (s.setStrategy).units = s.units := rfl
@[simp] theorem setStrategy_prob (s : State) : (s.setStrategy).prob = s.prob := rfl
@[simp] theorem setStrategy_costt (s : State) : (s.setStrategy).costt = s.costt := rfl
@[simp] theorem setStrategy_selDet (s : State) : (s.setStrategy).selDet = s.cap := rfl
@[simp] theorem setStrategy_selCost (s : State) : (s.setStrategy).selCost = s.cap := rfl
@[simp] theorem setStrategy_initDone (s : State) : (s.setStrategy).initDone = true := rfl
@[simp] theorem setStrategy_cap (s : State) : (s.setStrategy).cap = s.cap := rfl
@[simp] theorem setStrategy_cur (s : State) : (s.setStrategy).cur = s.cur := rfl
@[simp] theorem setStrategy_events (s : State) : (s.setStrategy).events = s.events := rfl
@[simp] theorem setStrategy_draws (s : State) : (s.setStrategy).draws = s.draws := rfl

@[simp] theorem accept_cfg (s : State) (k : Nat) (u : UnitState) (ws : List Word) : (s.accept k u ws).cfg = s.cfg := rfl
@[simp] theorem accept_units (s : State) (k : Nat) (u : UnitState) (ws : List Word) : (s.accept k u ws).units = s.units.set k { u with port := ws } := rfl
@[simp] theorem accept_prob (s : State) (k : Nat) (u : UnitState) (ws : List Word) : (s.accept k u ws).prob = s.prob := rfl
@[simp] theorem accept_costt (s : State) (k : Nat) (u : UnitState) (ws : List Word) : (s.accept k u ws).costt = s.costt := rfl
@[simp] theorem accept_selDet (s : State) (k : Nat) (u : UnitState) (ws : List Word) : (s.accept k u ws).selDet = s.selDet := rfl
@[simp] theorem accept_selCost (s : State) (k : Nat) (u : UnitState) (ws : List Word) : (s.accept k u ws).selCost = s.selCost := rfl
@[simp] theorem accept_initDone (s : State) (k : Nat) (u : UnitState) (ws : List Word) : (s.accept k u ws).initDone = s.initDone := rfl
@[simp] theorem accept_cap (s : State) (k : Nat) (u : UnitState) (ws : List Word) : (s.accept k u ws).cap = s.cap := rfl
@[simp] theorem accept_cur (s : State) (k : Nat) (u : UnitState) (ws : List Word) : (s.accept k u ws).cur = k := rfl
@[simp] theorem accept_events (s : State) (k : Nat) (u : UnitState) (ws : List Word) : (s.accept k u ws).events = s.events := rfl
@[simp] theorem accept_draws (s : State) (k : Nat) (u : UnitState) (ws : List Word) : (s.accept k u ws).draws = s.draws := rfl

@[simp] theorem applyReset_cfg (s : State) : (s.applyReset).cfg = s.cfg := rfl
@[simp] theorem applyReset_units (s : State) : (s.applyReset).units = s.units.map UnitState.applyReset := rfl
@[simp] theorem applyReset_prob (s : State) : (s.applyReset).prob = [] := rfl
@[simp] theorem applyReset_costt (s : State) : (s.applyReset).costt = [] := rfl
@[simp] theorem applyReset_selDet (s : State) : (s.applyReset).selDet = false := rfl
@[simp] theorem applyReset_selCost (s : State) : (s.applyReset).selCost = false := rfl
@[simp] theorem applyReset_initDone (s : State) : (s.applyReset).initDone = false := rfl
@[simp] theorem applyReset_cap (s : State) : (s.applyReset).cap = s.cap := rfl
@[simp] theorem applyReset_cur (s : State) : (s.applyReset).cur = s.cur := rfl
@[simp] theorem applyReset_events (s : State) : (s.applyReset).events = s.events := rfl
@[simp] theorem applyReset_draws (s : State) : (s.applyReset).draws = s.draws := rfl

@[simp] theorem clearCoefs_coef (u : UnitState) : (u.clearCoefs).coef = Vector.replicate 16 0 := rfl
@[simp] theorem clearCoefs_coefV (u : UnitState) : (u.clearCoefs).coefV = BitVec.allOnes 16 := rfl
@[simp] theorem clearCoefs_first (u : UnitState) : (u.clearCoefs).first = u.first := rfl
@[simp] theorem clearCoefs_firstV (u : UnitState) : (u.clearCoefs).firstV = u.firstV := rfl
@[simp] theorem clearCoefs_last (u : UnitState) : (u.clearCoefs).last = u.last := rfl
@[simp] theorem clearCoefs_lastV (u : UnitState) : (u.clearCoefs).lastV = false := rfl
@[simp] theorem clearCoefs_result (u : UnitState) : (u.clearCoefs).result = u.result := rfl
@[simp] theorem clearCoefs_resultV (u : UnitState) : (u.clearCoefs).resultV = u.resultV := rfl
@[simp] theorem clearCoefs_faulted (u : UnitState) : (u.clearCoefs).faulted = u.faulted := rfl
@[simp] theorem clearCoefs_fcause (u : UnitState) : (u.clearCoefs).fcause = u.fcause := rfl
@[simp] theorem clearCoefs_fpos (u : UnitState) : (u.clearCoefs).fpos = u.fpos := rfl
@[simp] theorem clearCoefs_finfo (u : UnitState) : (u.clearCoefs).finfo = u.finfo := rfl
@[simp] theorem clearCoefs_port (u : UnitState) : (u.clearCoefs).port = u.port := rfl
@[simp] theorem clearCoefs_responses (u : UnitState) : (u.clearCoefs).responses = u.responses := rfl

@[simp] theorem setCoef_coef (u : UnitState) (i : Pos) (v : BitVec 16) : (u.setCoef i v).coef = u.coef.set i v := rfl
@[simp] theorem setCoef_coefV (u : UnitState) (i : Pos) (v : BitVec 16) : (u.setCoef i v).coefV = setCoefFlag u.coefV i := rfl
@[simp] theorem setCoef_first (u : UnitState) (i : Pos) (v : BitVec 16) : (u.setCoef i v).first = u.first := rfl
@[simp] theorem setCoef_firstV (u : UnitState) (i : Pos) (v : BitVec 16) : (u.setCoef i v).firstV = u.firstV := rfl
@[simp] theorem setCoef_last (u : UnitState) (i : Pos) (v : BitVec 16) : (u.setCoef i v).last = u.last := rfl
@[simp] theorem setCoef_lastV (u : UnitState) (i : Pos) (v : BitVec 16) : (u.setCoef i v).lastV = false := rfl
@[simp] theorem setCoef_result (u : UnitState) (i : Pos) (v : BitVec 16) : (u.setCoef i v).result = u.result := rfl
@[simp] theorem setCoef_resultV (u : UnitState) (i : Pos) (v : BitVec 16) : (u.setCoef i v).resultV = u.resultV := rfl
@[simp] theorem setCoef_faulted (u : UnitState) (i : Pos) (v : BitVec 16) : (u.setCoef i v).faulted = u.faulted := rfl
@[simp] theorem setCoef_fcause (u : UnitState) (i : Pos) (v : BitVec 16) : (u.setCoef i v).fcause = u.fcause := rfl
@[simp] theorem setCoef_fpos (u : UnitState) (i : Pos) (v : BitVec 16) : (u.setCoef i v).fpos = u.fpos := rfl
@[simp] theorem setCoef_finfo (u : UnitState) (i : Pos) (v : BitVec 16) : (u.setCoef i v).finfo = u.finfo := rfl
@[simp] theorem setCoef_port (u : UnitState) (i : Pos) (v : BitVec 16) : (u.setCoef i v).port = u.port := rfl
@[simp] theorem setCoef_responses (u : UnitState) (i : Pos) (v : BitVec 16) : (u.setCoef i v).responses = u.responses := rfl

@[simp] theorem setFirst_coef (u : UnitState) (v : BitVec 4) : (u.setFirst v).coef = u.coef := rfl
@[simp] theorem setFirst_coefV (u : UnitState) (v : BitVec 4) : (u.setFirst v).coefV = u.coefV := rfl
@[simp] theorem setFirst_first (u : UnitState) (v : BitVec 4) : (u.setFirst v).first = v := rfl
@[simp] theorem setFirst_firstV (u : UnitState) (v : BitVec 4) : (u.setFirst v).firstV = true := rfl
@[simp] theorem setFirst_last (u : UnitState) (v : BitVec 4) : (u.setFirst v).last = u.last := rfl
@[simp] theorem setFirst_lastV (u : UnitState) (v : BitVec 4) : (u.setFirst v).lastV = u.lastV := rfl
@[simp] theorem setFirst_result (u : UnitState) (v : BitVec 4) : (u.setFirst v).result = u.result := rfl
@[simp] theorem setFirst_resultV (u : UnitState) (v : BitVec 4) : (u.setFirst v).resultV = u.resultV := rfl
@[simp] theorem setFirst_faulted (u : UnitState) (v : BitVec 4) : (u.setFirst v).faulted = u.faulted := rfl
@[simp] theorem setFirst_fcause (u : UnitState) (v : BitVec 4) : (u.setFirst v).fcause = u.fcause := rfl
@[simp] theorem setFirst_fpos (u : UnitState) (v : BitVec 4) : (u.setFirst v).fpos = u.fpos := rfl
@[simp] theorem setFirst_finfo (u : UnitState) (v : BitVec 4) : (u.setFirst v).finfo = u.finfo := rfl
@[simp] theorem setFirst_port (u : UnitState) (v : BitVec 4) : (u.setFirst v).port = u.port := rfl
@[simp] theorem setFirst_responses (u : UnitState) (v : BitVec 4) : (u.setFirst v).responses = u.responses := rfl

@[simp] theorem setLast_coef (u : UnitState) (r : Int) : (u.setLast r).coef = u.coef := rfl
@[simp] theorem setLast_coefV (u : UnitState) (r : Int) : (u.setLast r).coefV = u.coefV := rfl
@[simp] theorem setLast_first (u : UnitState) (r : Int) : (u.setLast r).first = u.first := rfl
@[simp] theorem setLast_firstV (u : UnitState) (r : Int) : (u.setLast r).firstV = u.firstV := rfl
@[simp] theorem setLast_last (u : UnitState) (r : Int) : (u.setLast r).last = BitVec.ofInt 5 r := rfl
@[simp] theorem setLast_lastV (u : UnitState) (r : Int) : (u.setLast r).lastV = true := rfl
@[simp] theorem setLast_result (u : UnitState) (r : Int) : (u.setLast r).result = u.result := rfl
@[simp] theorem setLast_resultV (u : UnitState) (r : Int) : (u.setLast r).resultV = u.resultV := rfl
@[simp] theorem setLast_faulted (u : UnitState) (r : Int) : (u.setLast r).faulted = u.faulted := rfl
@[simp] theorem setLast_fcause (u : UnitState) (r : Int) : (u.setLast r).fcause = u.fcause := rfl
@[simp] theorem setLast_fpos (u : UnitState) (r : Int) : (u.setLast r).fpos = u.fpos := rfl
@[simp] theorem setLast_finfo (u : UnitState) (r : Int) : (u.setLast r).finfo = u.finfo := rfl
@[simp] theorem setLast_port (u : UnitState) (r : Int) : (u.setLast r).port = u.port := rfl
@[simp] theorem setLast_responses (u : UnitState) (r : Int) : (u.setLast r).responses = u.responses := rfl

@[simp] theorem setResult_coef (u : UnitState) (v : BitVec 32) : (u.setResult v).coef = u.coef := rfl
@[simp] theorem setResult_coefV (u : UnitState) (v : BitVec 32) : (u.setResult v).coefV = u.coefV := rfl
@[simp] theorem setResult_first (u : UnitState) (v : BitVec 32) : (u.setResult v).first = u.first := rfl
@[simp] theorem setResult_firstV (u : UnitState) (v : BitVec 32) : (u.setResult v).firstV = u.firstV := rfl
@[simp] theorem setResult_last (u : UnitState) (v : BitVec 32) : (u.setResult v).last = u.last := rfl
@[simp] theorem setResult_lastV (u : UnitState) (v : BitVec 32) : (u.setResult v).lastV = u.lastV := rfl
@[simp] theorem setResult_result (u : UnitState) (v : BitVec 32) : (u.setResult v).result = v := rfl
@[simp] theorem setResult_resultV (u : UnitState) (v : BitVec 32) : (u.setResult v).resultV = true := rfl
@[simp] theorem setResult_faulted (u : UnitState) (v : BitVec 32) : (u.setResult v).faulted = u.faulted := rfl
@[simp] theorem setResult_fcause (u : UnitState) (v : BitVec 32) : (u.setResult v).fcause = u.fcause := rfl
@[simp] theorem setResult_fpos (u : UnitState) (v : BitVec 32) : (u.setResult v).fpos = u.fpos := rfl
@[simp] theorem setResult_finfo (u : UnitState) (v : BitVec 32) : (u.setResult v).finfo = u.finfo := rfl
@[simp] theorem setResult_port (u : UnitState) (v : BitVec 32) : (u.setResult v).port = u.port := rfl
@[simp] theorem setResult_responses (u : UnitState) (v : BitVec 32) : (u.setResult v).responses = u.responses := rfl

@[simp] theorem respond_coef (u : UnitState) (v : Word) : (u.respond v).coef = u.coef := rfl
@[simp] theorem respond_coefV (u : UnitState) (v : Word) : (u.respond v).coefV = u.coefV := rfl
@[simp] theorem respond_first (u : UnitState) (v : Word) : (u.respond v).first = u.first := rfl
@[simp] theorem respond_firstV (u : UnitState) (v : Word) : (u.respond v).firstV = u.firstV := rfl
@[simp] theorem respond_last (u : UnitState) (v : Word) : (u.respond v).last = u.last := rfl
@[simp] theorem respond_lastV (u : UnitState) (v : Word) : (u.respond v).lastV = u.lastV := rfl
@[simp] theorem respond_result (u : UnitState) (v : Word) : (u.respond v).result = u.result := rfl
@[simp] theorem respond_resultV (u : UnitState) (v : Word) : (u.respond v).resultV = u.resultV := rfl
@[simp] theorem respond_faulted (u : UnitState) (v : Word) : (u.respond v).faulted = u.faulted := rfl
@[simp] theorem respond_fcause (u : UnitState) (v : Word) : (u.respond v).fcause = u.fcause := rfl
@[simp] theorem respond_fpos (u : UnitState) (v : Word) : (u.respond v).fpos = u.fpos := rfl
@[simp] theorem respond_finfo (u : UnitState) (v : Word) : (u.respond v).finfo = u.finfo := rfl
@[simp] theorem respond_port (u : UnitState) (v : Word) : (u.respond v).port = u.port := rfl
@[simp] theorem respond_responses (u : UnitState) (v : Word) : (u.respond v).responses = u.responses ++ [v] := rfl

@[simp] theorem latch_coef (u : UnitState) (w : Word) (r : Raise) : (u.latch w r).coef = u.coef := rfl
@[simp] theorem latch_coefV (u : UnitState) (w : Word) (r : Raise) : (u.latch w r).coefV = u.coefV := rfl
@[simp] theorem latch_first (u : UnitState) (w : Word) (r : Raise) : (u.latch w r).first = u.first := rfl
@[simp] theorem latch_firstV (u : UnitState) (w : Word) (r : Raise) : (u.latch w r).firstV = u.firstV := rfl
@[simp] theorem latch_last (u : UnitState) (w : Word) (r : Raise) : (u.latch w r).last = u.last := rfl
@[simp] theorem latch_lastV (u : UnitState) (w : Word) (r : Raise) : (u.latch w r).lastV = u.lastV := rfl
@[simp] theorem latch_result (u : UnitState) (w : Word) (r : Raise) : (u.latch w r).result = u.result := rfl
@[simp] theorem latch_resultV (u : UnitState) (w : Word) (r : Raise) : (u.latch w r).resultV = u.resultV := rfl
@[simp] theorem latch_faulted (u : UnitState) (w : Word) (r : Raise) : (u.latch w r).faulted = true := rfl
@[simp] theorem latch_fcause (u : UnitState) (w : Word) (r : Raise) : (u.latch w r).fcause = causeCode r.cause := rfl
@[simp] theorem latch_fpos (u : UnitState) (w : Word) (r : Raise) : (u.latch w r).fpos = BitVec.ofNat 5 r.pos.val := rfl
@[simp] theorem latch_finfo (u : UnitState) (w : Word) (r : Raise) : (u.latch w r).finfo = w := rfl
@[simp] theorem latch_port (u : UnitState) (w : Word) (r : Raise) : (u.latch w r).port = u.port := rfl
@[simp] theorem latch_responses (u : UnitState) (w : Word) (r : Raise) : (u.latch w r).responses = u.responses := rfl

@[simp] theorem unitReset_coef (u : UnitState) : u.applyReset.coef = Vector.replicate 16 0 := rfl
@[simp] theorem unitReset_coefV (u : UnitState) : u.applyReset.coefV = 0 := rfl
@[simp] theorem unitReset_first (u : UnitState) : u.applyReset.first = 0 := rfl
@[simp] theorem unitReset_firstV (u : UnitState) : u.applyReset.firstV = false := rfl
@[simp] theorem unitReset_last (u : UnitState) : u.applyReset.last = 0 := rfl
@[simp] theorem unitReset_lastV (u : UnitState) : u.applyReset.lastV = false := rfl
@[simp] theorem unitReset_result (u : UnitState) : u.applyReset.result = 0 := rfl
@[simp] theorem unitReset_resultV (u : UnitState) : u.applyReset.resultV = false := rfl
@[simp] theorem unitReset_faulted (u : UnitState) : u.applyReset.faulted = false := rfl
@[simp] theorem unitReset_fcause (u : UnitState) : u.applyReset.fcause = 0 := rfl
@[simp] theorem unitReset_fpos (u : UnitState) : u.applyReset.fpos = 0 := rfl
@[simp] theorem unitReset_finfo (u : UnitState) : u.applyReset.finfo = 0 := rfl
@[simp] theorem unitReset_port (u : UnitState) : u.applyReset.port = u.port := rfl
@[simp] theorem unitReset_responses (u : UnitState) : u.applyReset.responses = [] := rfl

end Sys2Proof.Machine
end

