-- ==== Sys2Proof/Laws/Ops.lean ====
section
/-! SUPPORT. What the shared operations can do, said once: the executing unit, the common prologue, fault entry, and
the shapes of the states a command leaves. -/

namespace Sys2Proof.Machine

theorem cur_lt_of_unit {s : State} {u : UnitState} (h : s.unit = some u) : s.cur < s.units.length :=
  (List.getElem?_eq_some_iff.mp h).1

theorem unit_setUnit {s : State} {u : UnitState} (h : s.unit = some u) (v : UnitState) :
    (s.setUnit v).unit = some v := by
  simp [State.unit, cur_lt_of_unit h]

theorem units_setUnit_other (s : State) (v : UnitState) {k : Nat} (h : k ≠ s.cur) :
    (s.setUnit v).units[k]? = s.units[k]? := by
  simp [h.symm]

theorem length_setUnit (s : State) (v : UnitState) : (s.setUnit v).units.length = s.units.length := by
  simp

theorem setUnit_setUnit (s : State) (v w : UnitState) : (s.setUnit v).setUnit w = s.setUnit w := by
  simp [State.setUnit]

theorem setUnit_self {s : State} {u : UnitState} (h : s.unit = some u) : s.setUnit u = s := by
  obtain ⟨hlt, hu⟩ := List.getElem?_eq_some_iff.mp h
  simp [State.setUnit, ← hu]

theorem mem_setUnit {s : State} {v x : UnitState} (h : x ∈ (s.setUnit v).units) : x = v ∨ x ∈ s.units := by
  rcases List.mem_or_eq_of_mem_set h with h | h
  · exact .inr h
  · exact .inl h

theorem onUnit_none {s : State} (h : s.unit = none) (d b : UnitState → State) :
    onUnit s d b = .fault .noSuchUnit := by
  simp [onUnit, h]

theorem onUnit_running {s : State} {u : UnitState} (h : s.unit = some u) (hf : u.faulted = false)
    (d b : UnitState → State) : onUnit s d b = .next (b u) := by
  simp [onUnit, h, hf]

theorem onUnit_faulted {s : State} {u : UnitState} (h : s.unit = some u) (hf : u.faulted = true)
    (d b : UnitState → State) : onUnit s d b = .next (d u) := by
  simp [onUnit, h, hf]

theorem command_running {s : State} {u : UnitState} (h : s.unit = some u) (hf : u.faulted = false)
    (b : UnitState → State) : command s b = .next (b u) := onUnit_running h hf _ _

theorem command_faulted {s : State} {u : UnitState} (h : s.unit = some u) (hf : u.faulted = true)
    (b : UnitState → State) : command s b = .next s := onUnit_faulted h hf _ _

/-- Everything the prologue can do: drop on a faulted unit, run the body on another one. -/
theorem onUnit_next {s t : State} {d b : UnitState → State} (h : onUnit s d b = .next t) :
    ∃ u, s.unit = some u ∧ ((u.faulted = true ∧ t = d u) ∨ (u.faulted = false ∧ t = b u)) := by
  unfold onUnit at h
  split at h
  · cases h
  · rename_i u hu
    refine ⟨u, hu, ?_⟩
    split at h
    · rename_i hf
      cases h
      exact .inl ⟨hf, rfl⟩
    · rename_i hf
      cases h
      exact .inr ⟨by simpa using hf, rfl⟩

theorem command_next {s t : State} {b : UnitState → State} (h : command s b = .next t) :
    ∃ u, s.unit = some u ∧ ((u.faulted = true ∧ t = s) ∨ (u.faulted = false ∧ t = b u)) := onUnit_next h

/-- The one way a meaning stops: `cur` names no unit. -/
theorem onUnit_total (s : State) (d b : UnitState → State) :
    (s.unit = none ∧ onUnit s d b = .fault .noSuchUnit) ∨ (∃ u t, s.unit = some u ∧ onUnit s d b = .next t) := by
  cases h : s.unit with
  | none => exact .inl ⟨rfl, onUnit_none h _ _⟩
  | some u =>
    refine .inr ⟨u, ?_⟩
    cases hf : u.faulted with
    | false => exact ⟨_, rfl, onUnit_running h hf _ _⟩
    | true => exact ⟨_, rfl, onUnit_faulted h hf _ _⟩

theorem causeCode_range (c : Cause) : 1 ≤ (causeCode c).toNat ∧ (causeCode c).toNat ≤ 7 := by
  cases c <;> decide

theorem mem_allPositions (i : Pos) : i ∈ allPositions := by
  revert i; decide

theorem coefFlag_setCoefFlag (v : BitVec 16) (i j : Pos) :
    coefFlag (setCoefFlag v i) j = (coefFlag v j || decide (i = j)) := by
  simp [coefFlag, setCoefFlag, Fin.ext_iff, eq_comm]

/-- `COEF_ALLV` is set exactly when every flag is (10_state.md R11). -/
theorem coefAllV_iff (v : BitVec 16) : coefAllV v = true ↔ ∀ i : Pos, coefFlag v i = true := by
  simp only [coefAllV, coefFlag, decide_eq_true_eq]
  constructor
  · rintro rfl i
    rw [BitVec.getLsbD_allOnes]
    simp
  · intro h
    apply BitVec.eq_of_getLsbD_eq
    intro i hi
    rw [BitVec.getLsbD_allOnes, h ⟨i, hi⟩]
    simp [hi]

theorem lowestUnwritten_none (v : BitVec 16) : lowestUnwritten v = none ↔ coefAllV v = true := by
  rw [coefAllV_iff]
  simp only [lowestUnwritten, List.find?_eq_none, Bool.not_eq_true']
  exact ⟨fun h i => by simpa using h i (mem_allPositions i), fun h i _ => by simp [h i]⟩

theorem regOfBits_regNumber (r : Reg) : regOfBits (regNumber r) = some r := by
  cases r with
  | coef i => revert i; decide
  | _ => rfl

end Sys2Proof.Machine
end

