-- ==== Sys2Proof/Laws/Exec.lean ====
section
/-! SUPPORT. What one command can do to the state, said once per command (the inversion lemma `exec_cases`), and what
one step can do (`advance_cases`). -/

namespace Sys2Proof.Machine

theorem detlast_running {s : State} {u : UnitState} (h : s.unit = some u) (hf : u.faulted = false) :
    execDetlast s = .next (match detlastIndex s u with
      | .error r => s.takeFault u (encode .detlast) r
      | .ok r => s.setUnit ((u.setLast r).respond (BitVec.ofInt 32 r))) :=
  command_running h hf _

theorem cost_running {s : State} {u : UnitState} (h : s.unit = some u) (hf : u.faulted = false) (c : Ctx) :
    execCost c s = .next (match costValue s u c with
      | .error r => s.takeFault u (encode (.cost c)) r
      | .ok total => s.setUnit ((u.setResult total).respond total)) :=
  command_running h hf _

/-- When `DETLAST` gets an index, `INIT` has completed, every coefficient has a value, and the index is the selected
implementation's. -/
theorem detlastIndex_ok {s : State} {u : UnitState} {r : Int} (h : detlastIndex s u = .ok r) :
    s.initDone = true ∧ coefAllV u.coefV = true ∧ r = detectLastBy s.selDet u.coef := by
  unfold detlastIndex at h
  split at h
  · cases h
  · rename_i hd
    split at h
    · cases h
    · rename_i hl
      cases h
      exact ⟨by simpa using hd, (lowestUnwritten_none _).mp hl, rfl⟩

/-- What a command on a unit without a latched fault leaves, by cases; `w` is its own word. -/
inductive Effect (s : State) (u : UnitState) (w : Word) (t : State) : Prop where
  | nothing (h : t = s)
  | fault (r : Raise) (h : t = s.takeFault u w r)
  | strategy (h : t = s.setStrategy)
  | clear (h : t = s.setUnit u.clearCoefs)
  | coef (i : Pos) (v : BitVec 16) (h : t = s.setUnit (u.setCoef i v))
  | first (v : BitVec 4) (h : t = s.setUnit (u.setFirst v))
  | scan (r : Int) (hr : detlastIndex s u = .ok r)
      (h : t = s.setUnit ((u.setLast r).respond (BitVec.ofInt 32 r)))
  | cost (c : Ctx) (total : BitVec 32) (hc : costValue s u c = .ok total)
      (h : t = s.setUnit ((u.setResult total).respond total))
  | answer (v : Word) (h : t = s.setUnit (u.respond v))
  | prob (b : Band) (c : Ctx) (v : BitVec 8) (hb : b.val < s.cfg.numBands) (h : t = s.writeProb b c v)
  | costt (b : Band) (c : Ctx) (l : Level) (v : BitVec 16) (hb : b.val < s.cfg.numBands)
      (h : t = s.writeCostt b c l v)

/-- The inversion lemma of `exec`: a faulted unit drops the command or answers a register; another one does what one
case of `Effect` says. -/
theorem exec_cases {i : Instr} {s t : State} (h : exec i s = .next t) :
    ∃ u, s.unit = some u ∧
      ((u.faulted = true ∧ (t = s ∨ ∃ reg v, i = .rdreg reg ∧ readableWhileFaulted reg = true ∧
          regValue s u reg = some v ∧ t = s.setUnit (u.respond v))) ∨
       (u.faulted = false ∧ Effect s u (encode i) t)) := by
  cases i with
  | nop =>
    obtain ⟨u, hu, ⟨hf, rfl⟩ | ⟨hf, rfl⟩⟩ := command_next h
    · exact ⟨u, hu, .inl ⟨hf, .inl rfl⟩⟩
    · exact ⟨u, hu, .inr ⟨hf, .nothing rfl⟩⟩
  | init =>
    obtain ⟨u, hu, ⟨hf, rfl⟩ | ⟨hf, rfl⟩⟩ := command_next h
    · exact ⟨u, hu, .inl ⟨hf, .inl rfl⟩⟩
    · exact ⟨u, hu, .inr ⟨hf, .strategy rfl⟩⟩
  | clrcoef =>
    obtain ⟨u, hu, ⟨hf, rfl⟩ | ⟨hf, rfl⟩⟩ := command_next h
    · exact ⟨u, hu, .inl ⟨hf, .inl rfl⟩⟩
    · exact ⟨u, hu, .inr ⟨hf, .clear rfl⟩⟩
  | ldcoef idx val =>
    obtain ⟨u, hu, ⟨hf, rfl⟩ | ⟨hf, rfl⟩⟩ := command_next h
    · exact ⟨u, hu, .inl ⟨hf, .inl rfl⟩⟩
    · exact ⟨u, hu, .inr ⟨hf, .coef idx val rfl⟩⟩
  | setfirst first =>
    obtain ⟨u, hu, ⟨hf, rfl⟩ | ⟨hf, rfl⟩⟩ := command_next h
    · exact ⟨u, hu, .inl ⟨hf, .inl rfl⟩⟩
    · exact ⟨u, hu, .inr ⟨hf, .first first rfl⟩⟩
  | detlast =>
    obtain ⟨u, hu, ⟨hf, rfl⟩ | ⟨hf, rfl⟩⟩ := command_next h
    · exact ⟨u, hu, .inl ⟨hf, .inl rfl⟩⟩
    · refine ⟨u, hu, .inr ⟨hf, ?_⟩⟩
      split
      · exact .fault _ rfl
      · exact .scan _ ‹_› rfl
  | cost ctx0 =>
    obtain ⟨u, hu, ⟨hf, rfl⟩ | ⟨hf, rfl⟩⟩ := command_next h
    · exact ⟨u, hu, .inl ⟨hf, .inl rfl⟩⟩
    · refine ⟨u, hu, .inr ⟨hf, ?_⟩⟩
      split
      · exact .fault _ rfl
      · exact .cost _ _ ‹_› rfl
  | rdreg reg =>
    obtain ⟨u, hu, ⟨hf, ht⟩ | ⟨hf, ht⟩⟩ := onUnit_next h
    · refine ⟨u, hu, .inl ⟨hf, ?_⟩⟩
      split at ht
      · rename_i hr
        unfold answerReg at ht
        split at ht
        · exact .inr ⟨reg, _, rfl, hr, ‹_›, ht⟩
        · exact .inl ht
      · exact .inl ht
    · refine ⟨u, hu, .inr ⟨hf, ?_⟩⟩
      unfold answerReg at ht
      split at ht
      · exact .answer _ ht
      · exact .fault _ ht
  | ldprob band ctx val =>
    obtain ⟨u, hu, ⟨hf, rfl⟩ | ⟨hf, rfl⟩⟩ := command_next h
    · exact ⟨u, hu, .inl ⟨hf, .inl rfl⟩⟩
    · refine ⟨u, hu, .inr ⟨hf, ?_⟩⟩
      split
      · exact .prob _ _ _ ‹_› rfl
      · exact .fault _ rfl
  | ldcostt band ctx level val =>
    obtain ⟨u, hu, ⟨hf, rfl⟩ | ⟨hf, rfl⟩⟩ := command_next h
    · exact ⟨u, hu, .inl ⟨hf, .inl rfl⟩⟩
    · refine ⟨u, hu, .inr ⟨hf, ?_⟩⟩
      split
      · exact .costt _ _ _ _ ‹_› rfl
      · exact .fault _ rfl

/-- A command answers a next state exactly when `cur` names a unit. -/
theorem exec_total (i : Instr) {s : State} {u : UnitState} (h : s.unit = some u) : ∃ t, exec i s = .next t := by
  have total : ∀ d b, ∃ t, onUnit s d b = .next t := fun d b => by
    rcases onUnit_total s d b with ⟨hn, -⟩ | ⟨-, t, -, ht⟩
    · simp [h] at hn
    · exact ⟨t, ht⟩
  cases i <;> exact total _ _

/-- What a raw word does: a command's effect, or an illegal word's fault, or nothing on a faulted unit. -/
theorem runWord_cases {w : Word} {s t : State} (h : runWord w s = .next t) :
    (∃ i, decode s.cfg.numBands w = .command i ∧ exec i s = .next t) ∨
    (∃ u c, s.unit = some u ∧ ((u.faulted = true ∧ t = s) ∨ (u.faulted = false ∧ t = s.takeFault u w ⟨c, 0⟩))) := by
  unfold runWord at h
  split at h
  · exact .inl ⟨_, ‹_›, h⟩
  all_goals
    obtain ⟨u, hu, hc⟩ := command_next h
    exact .inr ⟨u, _, hu, hc⟩

theorem runWord_total (w : Word) {s : State} {u : UnitState} (h : s.unit = some u) : ∃ t, runWord w s = .next t := by
  have total : ∀ c, ∃ t, illegalWord s w c = .next t := fun c => by
    rcases onUnit_total s (fun _ => s) (fun u => s.takeFault u w ⟨c, 0⟩) with ⟨hn, -⟩ | ⟨-, t, -, ht⟩
    · simp [h] at hn
    · exact ⟨t, ht⟩
  unfold runWord
  split
  · exact exec_total _ h
  · exact total _
  · exact total _

theorem unit_accept {s : State} {k : Nat} {u : UnitState} (h : s.units[k]? = some u) (ws : List Word) :
    (s.accept k u ws).unit = some { u with port := ws } := by
  have := (List.getElem?_eq_some_iff.mp h).1
  simp [State.unit, this]

/-- What serving a unit can do: nothing, or run the word at the head of its port. -/
theorem serve_cases {k : Nat} {s t : State} (h : serve k s = .next t) :
    t = s ∨ ∃ u w ws, s.units[k]? = some u ∧ u.port = w :: ws ∧ runWord w (s.accept k u ws) = .next t := by
  unfold serve at h
  split at h
  · cases h; exact .inl rfl
  · rename_i u hu
    split at h
    · cases h; exact .inl rfl
    · exact .inr ⟨u, _, _, hu, ‹_›, h⟩

theorem serve_total (k : Nat) (s : State) : ∃ t, serve k s = .next t := by
  unfold serve
  split
  · exact ⟨_, rfl⟩
  · rename_i u hu
    split
    · exact ⟨_, rfl⟩
    · exact runWord_total _ (unit_accept hu _)

/-- What one step can do: one event, or the serving of one unit, with the event or the draw used up. -/
theorem advance_cases {s t : State} (h : advance s = .next t) :
    (s.events = [] ∧ (t = s ∨ (∃ k, serve k s = .next t) ∨
      ∃ k, serve k { s with draws := s.draws + 1 } = .next t)) ∨
    (∃ e es, s.events = e :: es ∧ handleEvent e { s with events := es } = .next t) := by
  unfold advance at h
  split at h
  · refine .inl ⟨‹_›, ?_⟩
    unfold serveWaiting at h
    split at h
    · cases h; exact .inl rfl
    · exact .inr (.inl ⟨_, h⟩)
    · exact .inr (.inr ⟨_, h⟩)
  · exact .inr ⟨_, _, ‹_›, h⟩

end Sys2Proof.Machine
end

