-- ==== Sys2Proof/Laws/PerInstr.lean ====
section
/-! SUPPORT. Statements about every command as syntax, one lemma per constructor. EncodeRow: a command's word matches
its own row of the opcode map, must-be-zero bits included (30_encoding.md R64). -/

namespace Sys2Proof.Laws.EncodeRow

def Statement (i : Instr) : Prop := encode i &&& opcodeMask (opcodeOf i) = opcodeMatch (opcodeOf i)

theorem nop : Statement .nop := rfl

theorem init : Statement .init := rfl

theorem clrcoef : Statement .clrcoef := rfl

theorem ldcoef (idx : Pos) (val : BitVec 16) : Statement (.ldcoef idx val) := by
  refine BitVec.eq_of_getLsbD_eq fun k hk => ?_
  simp only [encode, opcodeOf, opcodeMask, opcodeMatch, BitVec.getLsbD_and, BitVec.getLsbD_append]
  interval_cases k <;> simp

theorem setfirst (first : BitVec 4) : Statement (.setfirst first) := by
  refine BitVec.eq_of_getLsbD_eq fun k hk => ?_
  simp only [encode, opcodeOf, opcodeMask, opcodeMatch, BitVec.getLsbD_and, BitVec.getLsbD_append]
  interval_cases k <;> simp

theorem detlast : Statement .detlast := rfl

theorem cost (ctx0 : Ctx) : Statement (.cost ctx0) := by
  refine BitVec.eq_of_getLsbD_eq fun k hk => ?_
  simp only [encode, opcodeOf, opcodeMask, opcodeMatch, BitVec.getLsbD_and, BitVec.getLsbD_append]
  interval_cases k <;> simp

theorem rdreg (reg : Reg) : Statement (.rdreg reg) := by
  refine BitVec.eq_of_getLsbD_eq fun k hk => ?_
  simp only [encode, opcodeOf, opcodeMask, opcodeMatch, BitVec.getLsbD_and, BitVec.getLsbD_append]
  interval_cases k <;> simp

theorem ldprob (band : Band) (ctx : Ctx) (val : BitVec 8) : Statement (.ldprob band ctx val) := by
  refine BitVec.eq_of_getLsbD_eq fun k hk => ?_
  simp only [encode, opcodeOf, opcodeMask, opcodeMatch, BitVec.getLsbD_and, BitVec.getLsbD_append]
  interval_cases k <;> simp

theorem ldcostt (band : Band) (ctx : Ctx) (level : Level) (val : BitVec 16) : Statement (.ldcostt band ctx level val) := by
  refine BitVec.eq_of_getLsbD_eq fun k hk => ?_
  simp only [encode, opcodeOf, opcodeMask, opcodeMatch, BitVec.getLsbD_and, BitVec.getLsbD_append]
  interval_cases k <;> simp

end Sys2Proof.Laws.EncodeRow
end

