-- ==== Sys2Proof/Tests/Slice0.lean ====
section
/-! SUPPORT. Tests of one decoding or one command each, expected values from spec/95_test_vectors.md, and for every
obligation with hypotheses a witness that meets them. -/

namespace Sys2Proof.Tests

open Sys2Proof Sys2Proof.Machine

-- one theorem at a time: the memory limit of the sandbox counts every thread's stack
set_option Elab.async false

/-! ### Fixtures -/

/-- The stand-in `ECOST_NO` of 95_test_vectors.md section 0: `512 - 2p`. -/
def ecostNoFixture : Vector (BitVec 16) 256 := Vector.ofFn (fun p => BitVec.ofNat 16 (512 - 2 * p.val))

/-- The stand-in `ECOST_YES` of 95_test_vectors.md section 0: `2p + 2`. -/
def ecostYesFixture : Vector (BitVec 16) 256 := Vector.ofFn (fun p => BitVec.ofNat 16 (2 * p.val + 2))

/-- The constants of configuration T1, `LFC` cut at 70 (`LFC[v] = 3v`), with `bands` bands and `units` units. -/
def cfgT1 (bands units : Nat) : Config where
  maxLevel := 70
  numBands := bands
  nUnits := units
  band := #v[0, 1, 2, 3, 6, 4, 5, 6, 6, 6, 6, 6, 6, 6, 6, 7, 0]
  lfc := (List.range 71).map (fun v => BitVec.ofNat 16 (3 * v))
  ecostNo := ecostNoFixture
  ecostYes := ecostYesFixture

/-- The constants of a configuration with four bands, every position in band 0. -/
def cfgFour (units : Nat) : Config := { cfgT1 4 units with band := Vector.replicate 17 0 }

/-- `PROB` of T1: `100 + 16b + 4c` in every entry. -/
def probT1 : Memory 8 := (List.range 24).map (fun a => (a, BitVec.ofNat 8 (100 + 16 * (a / 3) + 4 * (a % 3))))

/-- `COSTT` of T1 in the entries named: `1000b + 100c + l`. -/
def costtT1 (entries : List (Band × Ctx × Level)) : Memory 16 :=
  entries.foldl (fun m e => Memory.write m (costtEntry e.1 e.2.1 e.2.2)
    (BitVec.ofNat 16 (1000 * e.1.val + 100 * e.2.1.val + e.2.2.val))) []

/-- The entries V-C1 to V-C3, V-C10, V-C13, V-C14 and V-C17 read. -/
def costtFixture : Memory 16 :=
  costtT1 [(0, 0, 3), (0, 1, 3), (0, 2, 3), (1, 0, 1), (1, 1, 1), (1, 2, 1), (2, 1, 0), (3, 0, 2), (6, 2, 0), (4, 0, 0),
    (5, 0, 67), (7, 0, 1), (7, 1, 1), (7, 2, 1), (6, 0, 2)]

/-- A block of zeros but for the coefficients named. -/
def block (l : List (Pos × Int)) : Vector (BitVec 16) 16 :=
  l.foldl (fun v e => v.set e.1 (BitVec.ofInt 16 e.2)) (Vector.replicate 16 0)

/-- A unit with the block loaded, `FIRST` and `LAST` set. -/
def loaded (l : List (Pos × Int)) (first : BitVec 4) (last : Int) : UnitState :=
  { UnitState.reset with
    coef := block l, coefV := 0xFFFF, first := first, firstV := true, last := BitVec.ofInt 5 last, lastV := true }

/-- A unit that has latched `UNWRITTEN_STATE` on `RDREG 6`. -/
def broken : UnitState := faultedWith UnitState.reset 4 0 0x70000006

/-- Unit 0 of a one-unit block under T1, `INIT` done, tables loaded. -/
def ready (u : UnitState) : State :=
  { State.initial (cfgT1 8 1) false with units := [u], prob := probT1, costt := costtFixture, initDone := true }

/-- The same with no entry in any table. -/
def noTables (u : UnitState) : State := { ready u with prob := [], costt := [] }

/-- The same without the entry `a` of the Probability Table. -/
def without (a : Nat) (u : UnitState) : State := { ready u with prob := probT1.filter (fun e => decide (e.1 ≠ a)) }

/-- The same before `INIT`. -/
def early (u : UnitState) : State := { ready u with initDone := false }

/-- A one-unit block with four bands, `INIT` done. -/
def four (u : UnitState) : State := { ready u with cfg := cfgFour 1, prob := [], costt := [] }

/-- A block of two units. -/
def two (u0 u1 : UnitState) : State :=
  { State.initial (cfgT1 8 2) false with units := [u0, u1] }

/-- The state a step or a command leaves (the given one if there is none). -/
def ran (o : Host.Outcome State Fault Refusal) (s : State) : State :=
  match o with
  | .next t => t
  | _ => s

/-- The executing unit after a step or a command. -/
def ranUnit (o : Host.Outcome State Fault Refusal) : UnitState :=
  match o with
  | .next t => t.unit.getD UnitState.reset
  | _ => UnitState.reset

/-- The block of V-C13: position 1 holds -1, position 3 holds 2, position 6 holds -70. -/
def blockC13 : List (Pos × Int) := [(1, -1), (3, 2), (6, -70)]

/-! ### Well-formedness: an ill-formed term for each check -/

theorem test_wf_ldprob_band : (Instr.ldprob 4 0 0).wf 4 = false ∧ (Instr.ldprob 3 0 0).wf 4 = true := by decide

theorem test_wf_ldcostt_band : (Instr.ldcostt 4 0 0 0).wf 4 = false ∧ (Instr.ldcostt 3 0 0 0).wf 4 = true := by decide

/-! ### Decoding: words written out bit by bit from the formats of 30_encoding.md R61 -/

theorem test_decode_nop : decode 8 0b00000000000000000000000000000000 = .command .nop := by decide

theorem test_decode_init : decode 8 0b00010000000000000000000000000000 = .command .init := by decide

theorem test_decode_clrcoef : decode 8 0b00100000000000000000000000000000 = .command .clrcoef := by decide

theorem test_decode_ldcoef : decode 8 0b00110000000000101000000000000000 = .command (.ldcoef 2 (BitVec.ofInt 16 (-32768))) := by
  decide

theorem test_decode_setfirst : decode 8 0b01000000000000000000000000001111 = .command (.setfirst 15) := by decide

theorem test_decode_detlast : decode 8 0b01010000000000000000000000000000 = .command .detlast := by decide

theorem test_decode_cost : decode 8 0b01100000000000000000000000000010 = .command (.cost 2) := by decide

theorem test_decode_rdreg : decode 8 0b01110000000000000000000000011111 = .command (.rdreg (.coef 15)) := by decide

theorem test_decode_ldprob : decode 8 0b10000011000000000000000001111100 = .command (.ldprob 1 2 124) := by decide

theorem test_decode_ldcostt : decode 8 0b10011010010000110001001111001011 = .command (.ldcostt 5 0 67 5067) := by decide

/-- The illegal words of 95_test_vectors.md section 2.1. -/
theorem test_decode_illegal :
    [0xA0000000, 0xFFFFFFFF, 0x00000001, 0x30100003, 0x40000010, 0x60000004, 0x7000000A, 0x70000020, 0x80000100].map
      (decode 8) = List.replicate 9 .illegalCmd ∧
    [0x60000003, 0x81800000, 0x90440000].map (decode 8) = List.replicate 3 .illegalOperand := by decide

theorem test_encode_ldcoef : encode (.ldcoef 6 (BitVec.ofInt 16 (-70))) = 0x3006FFBA := by decide

theorem test_decode_bytes : decodeBytes 8 [0xBA, 0xFF, 0x06, 0x30, 0x00] =
    .word (.command (.ldcoef 6 (BitVec.ofInt 16 (-70)))) [0x00] := by decide

theorem test_table_word : decodeTableWord 32 0x9F43FFFF = some (.ldcostt 7 2 67 65535) := by decide

/-- The ranges of the assembler (30_encoding.md R72). -/
theorem test_assemble : assemble 8 "LDCOEF" [6, -70] = some (.ldcoef 6 0xFFBA) ∧
    assemble 8 "LDCOEF" [16, 0] = none ∧ assemble 8 "COST" [3] = none ∧ assemble 4 "LDPROB" [4, 0, 0] = none := by
  decide +kernel

/-! ### Commands, one step each (95_test_vectors.md section 2) -/

/-- The first step after reset runs the placed word (section 2.6: `RDREG 9` responds 0x001807FF). -/
theorem test_step_rdreg_params :
    (ranUnit (step (State.reset.withFetchWord 32 0x70000009))).responses = [0x001807FF] := by decide +kernel

/-- Section 2.6: `NOP` does nothing. -/
theorem test_nop : ranUnit (exec .nop State.reset) = UnitState.reset := by decide +kernel

/-- Section 2.6: `INIT` with `CAP` = 1, then `RDREG 6` responds 3. -/
theorem test_init : (ranUnit (exec (.rdreg .strat)
    (ran (exec .init { early UnitState.reset with cap := true }) State.reset))).responses = [3] := by decide +kernel

/-- Section 2.2: after `CLRCOEF` from reset, `STATUS` is 0xFFFF0020. -/
theorem test_clrcoef : statusWord false (ranUnit (exec .clrcoef State.reset)) = 0xFFFF0020 := by decide +kernel

/-- Section 2.2: after `LDCOEF 0, 3` from reset, `STATUS` is 0x00010000. -/
theorem test_ldcoef_status : statusWord false (ranUnit (exec (.ldcoef 0 3) State.reset)) = 0x00010000 := by
  decide +kernel

/-- Section 2.2: after `LDCOEF 6, -70`, `RDREG 22` responds 0xFFFFFFBA. -/
theorem test_ldcoef_negative : regValue State.reset (ranUnit (exec (.ldcoef 6 0xFFBA) State.reset)) (.coef 6) =
    some 0xFFFFFFBA := by decide +kernel

/-- Section 2.2: `SETFIRST 15`. -/
theorem test_setfirst : regValue State.reset (ranUnit (exec (.setfirst 15) State.reset)) .first = some 15 := by
  decide +kernel

/-- Section 2.3: `DETLAST` of `[0,-1,0,2,0,0,-70,0,...]` responds 6, of 16 zeros 0xFFFFFFFF. -/
theorem test_detlast : (ranUnit (exec .detlast (ready (loaded blockC13 1 0)))).responses = [6] ∧
    (ranUnit (exec .detlast (ready (loaded [] 0 0)))).responses = [0xFFFFFFFF] := by decide +kernel

/-- Section 2.3: with only coefficient 0 written, `DETLAST` faults at position 1, `FAULT` is 0x00000014. -/
theorem test_detlast_unwritten :
    faultWord (ranUnit (exec .detlast (ready { UnitState.reset with coefV := 1 }))) = 0x00000014 := by decide +kernel

/-- V-C1 to V-C3, V-C4, V-C13, V-C14, V-C17. -/
theorem test_cost :
    ([(0 : Ctx), 1, 2].map (fun c => (ranUnit (exec (.cost c) (ready (loaded [(0, 3)] 0 0)))).result) = [478, 376, 476]) ∧
    ([(0 : Ctx), 1, 2].map (fun c => (ranUnit (exec (.cost c) (ready (loaded [] 0 (-1))))).result) = [312, 304, 296]) ∧
    ([(0 : Ctx), 1, 2].map (fun c => (ranUnit (exec (.cost c) (ready (loaded blockC13 1 6)))).result) =
      [21927, 21793, 21893]) ∧
    ([(0 : Ctx), 1, 2].map (fun c => (ranUnit (exec (.cost c) (ready (loaded [(15, 1)] 15 15)))).result) =
      [7430, 7104, 7204]) := by decide +kernel

/-- Section 2.5: block with 1 at 2 and at 5, `FIRST` 3: `FAULT` is 0x00000026; block with -32768 at 2 and `FIRST` 2:
`FAULT` is 0x00000027. -/
theorem test_cost_faults : faultWord (ranUnit (exec (.cost 0) (ready (loaded [(2, 1), (5, 1)] 3 5)))) = 0x00000026 ∧
    faultWord (ranUnit (exec (.cost 0) (ready (loaded [(2, -32768)] 2 2)))) = 0x00000027 := by decide +kernel

/-- Section 2.6: `RDREG 6` after reset faults, `FAULT` 0x00000004, `FINFO` 0x70000006; the faulted unit then answers
`RDREG 4` and drops `RDREG 2`. -/
theorem test_rdreg_faults : ranUnit (exec (.rdreg .strat) State.reset) = broken ∧
    (ranUnit (exec (.rdreg .fault) (ready broken))).responses = [4] ∧
    (ranUnit (exec (.rdreg .last) (ready broken))).responses = [] := by decide +kernel

/-- Section 2.7: `LDPROB 1, 2, 124` writes entry 5 and no other. -/
theorem test_ldprob : (ran (exec (.ldprob 1 2 124) State.reset) State.reset).prob = [(5, 124)] := by decide +kernel

/-- Section 2.7: `LDCOSTT 7, 2, 67, 65535` writes entry 1631, the last one, and no other. -/
theorem test_ldcostt : (ran (exec (.ldcostt 7 2 67 65535) State.reset) State.reset).costt = [(1631, 65535)] := by
  decide +kernel

/-- Section 2.6: a faulted unit drops 0xFFFFFFFF; one that is not faulted latches code 1. -/
theorem test_illegal_word : ranUnit (runWord 0xFFFFFFFF (ready broken)) = broken ∧
    ranUnit (runWord 0xFFFFFFFF State.reset) = faultedWith UnitState.reset 1 0 0xFFFFFFFF := by decide +kernel

/-! ### Witnesses: states and operands that meet the hypotheses of each obligation, clause by clause -/

/-- A unit that is loaded with T1's block of V-C13. -/
def unitC13 : UnitState := loaded blockC13 1 6

theorem test_witness_DecodeOfEncodeIsTheCommand : Instr.nop.wf 1 = true ∧ (Instr.ldprob 7 2 255).wf 8 = true ∧
    (Instr.ldcostt 3 2 67 65535).wf 4 = true := by decide

theorem test_witness_CommandWordIsUnique : decode 8 0x9F43FFFF = .command (.ldcostt 7 2 67 65535) := by decide

theorem test_witness_OpcodeRowsAreDisjoint : (0x2000000F : Word) &&& opcodeMask .setfirst ≠ opcodeMatch .setfirst ∧
    (0x4000000F : Word) &&& opcodeMask .setfirst = opcodeMatch .setfirst := by decide

theorem test_witness_ReservedOpcodesRaise : (ready unitC13).unit = some unitC13 ∧ unitC13.faulted = false ∧
    10 ≤ (0xA#4).toNat ∧ 10 ≤ (0xF#4).toNat := by decide +kernel

theorem test_witness_MustBeZeroBitsRaise : (ready unitC13).unit = some unitC13 ∧ unitC13.faulted = false ∧
    (1#28 ≠ 0 ∧ 0x8000000#28 ≠ 0) ∧ (1#8 ≠ 0 ∧ 0x80#8 ≠ 0) ∧ (1#24 ≠ 0 ∧ 0x800000#24 ≠ 0) ∧
    (1#26 ≠ 0 ∧ 0x2000000#26 ≠ 0) ∧ (1#22 ≠ 0 ∧ 0x200000#22 ≠ 0) ∧ (1#15 ≠ 0 ∧ 0x4000#15 ≠ 0) := by decide +kernel

theorem test_witness_ReservedRegistersRaise : (ready unitC13).unit = some unitC13 ∧ unitC13.faulted = false ∧
    (∀ r ∈ [10#6, 15#6, 32#6, 63#6], (10 ≤ r.toNat ∧ r.toNat ≤ 15) ∨ 32 ≤ r.toNat) ∧
    (∀ r ∈ [9#6, 16#6, 31#6], ¬((10 ≤ r.toNat ∧ r.toNat ≤ 15) ∨ 32 ≤ r.toNat)) := by decide +kernel

theorem test_witness_ReservedOperandsRaise : (four unitC13).unit = some unitC13 ∧ unitC13.faulted = false ∧
    (four unitC13).cfg.numBands ≤ (4#3).toNat ∧ ¬(four unitC13).cfg.numBands ≤ (3#3).toNat ∧
    67 < (68#7).toNat ∧ ¬ 67 < (67#7).toNat := by decide +kernel

theorem test_witness_NopChangesNothing : (ready unitC13).unit = some unitC13 ∧ (ready broken).unit = some broken := by
  decide +kernel

theorem test_witness_ClrcoefZeroesTheBlock : (ready unitC13).unit = some unitC13 ∧ unitC13.faulted = false := by
  decide +kernel

theorem test_witness_LdcoefWritesOneCoefficient : (ready unitC13).unit = some unitC13 ∧ unitC13.faulted = false ∧
    (0 : Pos) ≠ 15 := by decide +kernel

theorem test_witness_SetfirstWritesFirst : (early UnitState.reset).unit = some UnitState.reset ∧
    UnitState.reset.faulted = false := by decide +kernel

theorem test_witness_BlockCommandsFrame : ∀ i ∈ [Instr.nop, .clrcoef, .ldcoef 0 3, .ldcoef 15 0x8000, .setfirst 15],
    exec i (ready unitC13) = .next (ran (exec i (ready unitC13)) State.reset) ∧
    (ready unitC13).unit = some unitC13 ∧
    (ran (exec i (ready unitC13)) State.reset).unit = some (ranUnit (exec i (ready unitC13))) := by
  simp only [List.forall_mem_cons, List.not_mem_nil, false_implies, implies_true, and_true]
  exact ⟨⟨rfl, rfl, rfl⟩, ⟨rfl, rfl, rfl⟩, ⟨rfl, rfl, rfl⟩, ⟨rfl, rfl, rfl⟩, ⟨rfl, rfl, rfl⟩⟩

theorem test_witness_LoadedBlockIsScanned : (ready unitC13).unit = some unitC13 ∧ unitC13.faulted = false ∧
    (ready unitC13).initDone = true := by decide +kernel

/-- `DETLAST` before `INIT`; with coefficient 0, 1 or 15 the lowest one without a value; with all 16 loaded. -/
theorem test_witness_DetlastReturnsTheScan :
    (early unitC13).unit = some unitC13 ∧ unitC13.faulted = false ∧ (early unitC13).initDone = false ∧
    (ready unitC13).initDone = true ∧
    (coefFlag 0 0 = false ∧ ∀ j : Pos, j < 0 → coefFlag 0 j = true) ∧
    (coefFlag 0x0001 1 = false ∧ ∀ j : Pos, j < 1 → coefFlag 0x0001 j = true) ∧
    (coefFlag 0x7FFF 15 = false ∧ ∀ j : Pos, j < 15 → coefFlag 0x7FFF j = true) ∧
    (∀ i : Pos, coefFlag unitC13.coefV i = true) := by decide +kernel

/-- An empty block, with `FIRST` 0 and 15. -/
theorem test_witness_CostOfAnEmptyBlock : ∀ first ∈ [0#4, 15#4],
    (ready (loaded [] first (-1))).unit = some (loaded [] first (-1)) ∧ (loaded [] first (-1)).readyForCost ∧
    (ready (loaded [] first (-1))).initDone = true ∧ (loaded [] first (-1)).promiseKept ∧
    (loaded [] first (-1)).last.toInt < 0 ∧
    (startEntry (ready (loaded [] first (-1))) 2 (firstPosition first)).isSome = true := by decide +kernel

/-- V-C13 (`LAST` 6, the terminating signal costed) and V-C17 (`LAST` 15, none). -/
theorem test_witness_CostIsTheSumOfItsTerms :
    ∀ e ∈ [(unitC13, (6 : Pos)), (loaded [(15, 1)] 15 15, (15 : Pos))],
    (ready e.1).unit = some e.1 ∧ e.1.readyForCost ∧ (ready e.1).initDone = true ∧ e.1.promiseKept ∧
    e.1.last.toInt = (e.2.val : Int) ∧ (startEntry (ready e.1) 0 (firstPosition e.1.first)).isSome = true ∧
    (∀ n ∈ scanRange (firstPosition e.1.first) e.2, mag e.1.coef[n] ≤ (ready e.1).cfg.maxLevel ∧
      (rowEntry (ready e.1) 0 (firstPosition e.1.first) e.1.coef n).isSome = true) ∧
    (e.2.val < 15 → (endEntry (ready e.1) e.1.coef e.2).isSome = true) := by decide +kernel

theorem test_witness_CostTotalIsBounded : ∃ t u', exec (.cost 0) (ready unitC13) = .next t ∧ t.unit = some u' ∧
    u'.faulted = false := ⟨_, ranUnit (exec (.cost 0) (ready unitC13)), rfl, by decide +kernel, by decide +kernel⟩

/-- The checks before the cost loop: before `INIT`; `FIRST` or `LAST` without a value; a broken promise at 0, at 14. -/
theorem test_witness_CostFaultsInOrder_checks :
    (early unitC13).unit = some unitC13 ∧ unitC13.faulted = false ∧ (early unitC13).initDone = false ∧
    (∀ u ∈ [loaded [(0, 5)] 1 0, loaded [(14, 5), (15, 1)] 15 15],
      (ready u).unit = some u ∧ u.faulted = false ∧ (ready u).initDone = true ∧ u.firstV = true ∧ u.lastV = true) ∧
    (∀ e ∈ [(loaded [(0, 5)] 1 0, (0 : Pos)), (loaded [(14, 5), (15, 1)] 15 15, (14 : Pos))],
      e.2.val < e.1.first.toNat ∧ e.1.coef[e.2] ≠ 0 ∧ ∀ j : Pos, j < e.2 → e.1.coef[j] = 0) := by decide +kernel

/-- `FIRST` without a value, `LAST` without a value; no starting entry. -/
theorem test_witness_CostFaultsInOrder_missing :
    (ready UnitState.reset).unit = some UnitState.reset ∧ UnitState.reset.firstV = false ∧
    (∃ u : UnitState, (ready u).unit = some u ∧ u.faulted = false ∧ u.firstV = true ∧ u.lastV = false) ∧
    (noTables unitC13).unit = some unitC13 ∧ (noTables unitC13).initDone = true ∧ unitC13.promiseKept ∧
    startEntry (noTables unitC13) 0 (firstPosition unitC13.first) = none :=
  ⟨rfl, rfl, ⟨ranUnit (exec (.setfirst 0) State.reset), rfl, rfl, rfl, rfl⟩, rfl, rfl, by decide +kernel,
    by decide +kernel⟩

/-- A magnitude above `MAX_LEVEL` (71 of 70), at position 0 and at 15. -/
theorem test_witness_CostFaultsInOrder_level :
    ∀ e ∈ [(loaded [(0, 71)] 0 0, (0 : Pos)), (loaded [(15, -71)] 15 15, (15 : Pos))],
      (startEntry (ready e.1) 0 (firstPosition e.1.first)).isSome = true ∧ e.1.promiseKept ∧
      e.1.last.toInt = (e.2.val : Int) ∧ e.2 ∈ scanRange (firstPosition e.1.first) e.2 ∧
      (∀ m ∈ scanRange (firstPosition e.1.first) e.2, ¬ m < e.2) ∧ (ready e.1).cfg.maxLevel < mag e.1.coef[e.2] := by
  decide +kernel

/-- A missing Cost Table entry, at position 0 and at 15. -/
theorem test_witness_CostFaultsInOrder_entry :
    ∀ e ∈ [(loaded [(0, 70)] 0 0, (0 : Pos)), (loaded [(15, 70)] 15 15, (15 : Pos))],
      (startEntry (ready e.1) 0 (firstPosition e.1.first)).isSome = true ∧ e.1.promiseKept ∧
      e.1.last.toInt = (e.2.val : Int) ∧ e.2 ∈ scanRange (firstPosition e.1.first) e.2 ∧
      (∀ m ∈ scanRange (firstPosition e.1.first) e.2, ¬ m < e.2) ∧ mag e.1.coef[e.2] ≤ (ready e.1).cfg.maxLevel ∧
      rowEntry (ready e.1) 0 (firstPosition e.1.first) e.1.coef e.2 = none := by decide +kernel

/-- A missing terminating probability, `PROB[1][2]` with `LAST` 0 and `PROB[7][2]` with `LAST` 14. -/
theorem test_witness_CostFaultsInOrder_end :
    ∀ e ∈ [(without 5 (loaded [(0, 3)] 0 0), loaded [(0, 3)] 0 0, (0 : Pos)),
        (without 23 (loaded [(14, -2)] 14 14), loaded [(14, -2)] 14 14, (14 : Pos))],
      e.1.unit = some e.2.1 ∧ e.1.initDone = true ∧ e.2.1.promiseKept ∧
      (startEntry e.1 0 (firstPosition e.2.1.first)).isSome = true ∧ e.2.1.last.toInt = (e.2.2.val : Int) ∧
      (∀ n ∈ scanRange (firstPosition e.2.1.first) e.2.2, mag e.2.1.coef[n] ≤ e.1.cfg.maxLevel ∧
        (rowEntry e.1 0 (firstPosition e.2.1.first) e.2.1.coef n).isSome = true) ∧
      e.2.2.val < 15 ∧ endEntry e.1 e.2.1.coef e.2.2 = none := by decide +kernel

theorem test_witness_RepeatedCostIsTheSame : ∃ t u', exec (.cost 1) (ready unitC13) = .next t ∧ t.unit = some u' ∧
    u'.faulted = false ∧ (ready unitC13).unit = some unitC13 ∧ unitC13.faulted = false :=
  ⟨_, ranUnit (exec (.cost 1) (ready unitC13)), rfl, by decide +kernel, by decide +kernel, rfl, rfl⟩

/-- V-C13 and V-C14: contexts 0 and 1, and 0 and 2. -/
theorem test_witness_StartingContextChangesTwoTerms : ∀ ctx0 ∈ [(1 : Ctx), 2],
    unitC13.lastMatches ∧ 0 ≤ unitC13.last.toInt ∧ ctx0 ≠ 0 ∧
    (ranUnit (exec (.cost 0) (ready unitC13))).faulted = false ∧
    (ranUnit (exec (.cost ctx0) (ready unitC13))).faulted = false ∧
    (startEntry (ready unitC13) 0 1).isSome = true ∧
    (rowEntry (ready unitC13) 0 1 unitC13.coef 1).isSome = true ∧
    (rowEntry (ready unitC13) ctx0 1 unitC13.coef 1).isSome = true := by decide +kernel

theorem test_witness_ReadingCommandsFrame : ∀ i ∈ [Instr.detlast, .cost 0, .rdreg .last, .rdreg .strat],
    (ready unitC13).unit = some unitC13 ∧ (ran (exec i (ready unitC13)) (ready broken)).unit =
      some (ranUnit (exec i (ready unitC13))) ∧ (ranUnit (exec i (ready unitC13))).faulted = false := by
  decide +kernel

theorem test_witness_InitSelectsOnce : (early unitC13).unit = some unitC13 ∧ unitC13.faulted = false ∧
    (early broken).unit = some broken ∧ broken.faulted = true := by decide +kernel

theorem test_witness_SelectionIsUnobservable : (∀ i ∈ [Instr.detlast, .cost 2, .rdreg .cap], i ≠ .rdreg .strat) ∧
    ∃ t, exec (.cost 2) (ready unitC13) = .next t := ⟨by decide, _, rfl⟩

/-- A register with a value, one without, and on a faulted unit one that is answered and one that is not. -/
theorem test_witness_RdregAnswersTheRegister :
    (ready unitC13).unit = some unitC13 ∧ regValue (ready unitC13) unitC13 .last = some 6 ∧
    regValue (ready unitC13) unitC13 .result = none ∧ unitC13.faulted = false ∧
    (ready broken).unit = some broken ∧ broken.faulted = true ∧
    (regNumber .status).toNat ∈ [0, 4, 5, 7, 8, 9] ∧ (regNumber .params).toNat ∈ [0, 4, 5, 7, 8, 9] ∧
    (regNumber (.coef 15)).toNat ∉ [0, 4, 5, 7, 8, 9] := by decide +kernel

theorem test_witness_LdprobWritesOneEntry : (four unitC13).unit = some unitC13 ∧ unitC13.faulted = false ∧
    (3 : Band).val < (four unitC13).cfg.numBands ∧ (four unitC13).cfg.numBands ≤ (4 : Band).val ∧
    probEntry 0 0 ≠ probEntry 3 2 := by decide +kernel

theorem test_witness_LdcosttWritesOneEntry : (four unitC13).unit = some unitC13 ∧ unitC13.faulted = false ∧
    (3 : Band).val < (four unitC13).cfg.numBands ∧ (four unitC13).cfg.numBands ≤ (4 : Band).val ∧
    costtEntry 0 0 0 ≠ costtEntry 3 2 67 := by decide +kernel

theorem test_witness_SharedWritersFrame : ∀ i ∈ [Instr.init, .ldprob 3 2 255, .ldcostt 3 2 67 65535],
    (ran (exec i (four unitC13)) (four broken)).unit = some unitC13 ∧ unitC13.faulted = false := by decide +kernel

/-- A fault of each command that can raise one, and of two illegal words. -/
theorem test_witness_FaultsArePrecise :
    ∀ e ∈ [(0x50000000, early unitC13), (0x60000000, early unitC13), (0x70000003, early unitC13),
      (0x98000000, four unitC13), (0xFFFFFFFF, ready unitC13)],
    e.2.unit = some unitC13 ∧ unitC13.faulted = false ∧
    (ran (runWord e.1 e.2) State.reset).unit = some (ranUnit (runWord e.1 e.2)) ∧
    (ranUnit (runWord e.1 e.2)).faulted = true := by decide +kernel

theorem test_witness_CommandsRaiseOnlyTheirFaults : ∃ t u', exec (.rdreg .result) (early unitC13) = .next t ∧
    (early unitC13).unit = some unitC13 ∧ unitC13.faulted = false ∧ t.unit = some u' ∧ u'.faulted = true :=
  ⟨_, _, rfl, rfl, rfl, rfl, rfl⟩

theorem test_witness_PrologueOfEveryWord :
    (ready broken).unit = some broken ∧ broken.faulted = true ∧
    decode 8 0x70000004 = .command (.rdreg .fault) ∧ (regNumber .fault).toNat ∈ [0, 4, 5, 7, 8, 9] ∧
    decode 8 0xFFFFFFFF = .illegalCmd ∧ decode 8 0x60000003 = .illegalOperand ∧ decode 8 0x50000000 = .command .detlast ∧
    (ready unitC13).unit = some unitC13 ∧ unitC13.faulted = false := by decide +kernel

/-- A faulted unit over a step without an event, over a step that presents a word, and over reset. -/
theorem test_witness_FaultIsSticky :
    (∃ t, step (ready broken) = .next t ∧ (ready broken).units[0]? = some broken ∧ broken.faulted = true ∧
      ¬ (ready broken).resetsNext) ∧
    (∃ t, step { ready broken with events := [.reset [0]] } = .next t ∧
      ({ ready broken with events := [.reset [0]] } : State).resetsNext) :=
  ⟨⟨_, rfl, rfl, rfl, (fun ⟨_, _, h⟩ => nomatch h)⟩, _, rfl, _, _, rfl⟩

/-- A granted unit with any word at the head of its port: 0xFFFFFFFF and 0x60000003, which decode to no command, and
0x50000000 among them. -/
theorem test_witness_StepRunsTheDecodedCommand :
    (∀ w : Word, ({ ready { unitC13 with port := [w] } with events := [.grant 0] } : State).units[0]? =
      some { unitC13 with port := [w] } ∧
      ({ ready { unitC13 with port := [w] } with events := [.grant 0] } : State).events = [.grant 0]) ∧
    decode 8 0xFFFFFFFF = .illegalCmd ∧ decode 8 0x60000003 = .illegalOperand ∧
    decode 8 0x50000000 = .command .detlast := ⟨fun _ => ⟨rfl, rfl⟩, by decide⟩

/-- The only unit with a word of a block of two, again with any word, and no event. -/
theorem test_witness_StepRunsTheDecodedCommand_alone (w : Word) :
    (two { unitC13 with port := [w, 0] } unitC13).units[0]? = some { unitC13 with port := [w, 0] } ∧
    (two { unitC13 with port := [w, 0] } unitC13).events = [] ∧
    ∀ (j : Nat) (v : UnitState), (two { unitC13 with port := [w, 0] } unitC13).units[j]? = some v → j ≠ 0 →
      v.port = [] := by
  refine ⟨rfl, rfl, fun j v hv hj => ?_⟩
  match j, hj with
  | 1, _ => cases hv; rfl
  | _ + 2, _ => cases hv

/-- A step latches an illegal word that waits on the port, and answers a waiting `DETLAST`. -/
theorem test_step_illegal_word :
    (ranUnit (step (ready { unitC13 with port := [0xFFFFFFFF] }))).finfo = 0xFFFFFFFF ∧
    (ranUnit (step (ready { unitC13 with port := [0x50000000] }))).responses = [6] := by decide +kernel

theorem test_witness_PlacedWordRunsNext : (ready unitC13).unit = some unitC13 ∧
    (Instr.ldprob 7 2 255).wf (ready unitC13).cfg.numBands = true := by decide +kernel

/-- No word waiting, words on one of two ports, words on both (a legal one and an illegal one). -/
theorem test_witness_WaitingWordsAreTaken : (ready unitC13).events = [] ∧ (ready unitC13).waitingWords = 0 ∧
    (two { unitC13 with port := [0] } unitC13).waitingWords = 1 ∧
    (two { unitC13 with port := [0] } unitC13).units[1]? = some unitC13 ∧ unitC13.port = [] ∧
    (two { unitC13 with port := [0] } { unitC13 with port := [0xFFFFFFFF, 0] }).events = [] ∧
    0 < (two { unitC13 with port := [0] } { unitC13 with port := [0xFFFFFFFF, 0] }).waitingWords ∧
    (two { unitC13 with port := [0] } { unitC13 with port := [0xFFFFFFFF, 0] }).units.map (fun u => u.port) =
      [[0], [0xFFFFFFFF, 0]] := by decide +kernel

theorem test_witness_ServingTouchesOneUnit : ∃ t, step { two { unitC13 with port := [0x20000000] } unitC13 with
    events := [.grant 0] } = .next t ∧ (1 : Nat) ≠ 0 := ⟨_, rfl, by decide⟩

theorem test_witness_ConfigurationIsConstant : ∃ t, step { ready broken with events := [.reset []] } = .next t :=
  ⟨_, rfl⟩

theorem test_witness_SharedFlagsStaySet : (∃ t, step (ready unitC13) = .next t) ∧
    ¬ (ready unitC13).resetsNext ∧ (ready unitC13).initDone = true ∧
    (Memory.read (ready unitC13).prob 23).isSome = true ∧
    (Memory.read (ready unitC13).costt (costtEntry 7 0 1)).isSome = true :=
  ⟨⟨_, rfl⟩, (fun ⟨_, _, h⟩ => nomatch h), rfl, by decide +kernel, by decide +kernel⟩

theorem test_witness_ResetLeavesNoValue : ({ ready unitC13 with events := [.reset [0]] } : State).events =
    [.reset [0]] := rfl

theorem test_witness_HostEventsReachTheirUnit :
    (ready unitC13).units[0]? = some unitC13 ∧
    ({ ready unitC13 with events := [.present 0 0x50000000] } : State).events = [.present 0 0x50000000] ∧
    ({ ready { unitC13 with responses := [6, 7] } with events := [.drain 0] } : State).units.map (fun u => u.responses) =
      [[6, 7]] ∧
    ({ ready unitC13 with events := [.driveCap true] } : State).events = [.driveCap true] ∧
    ({ ready unitC13 with events := [.reset [0]] } : State).events = [.reset [0]] ∧ 0 ∈ [0] ∧ 0 ∉ ([] : List Nat) := by decide +kernel

theorem test_witness_ResetMeetsTheInvariant : (cfgT1 8 1).Ok ∧ (cfgT1 8 255).Ok ∧ (cfgFour 1).Ok := by decide +kernel

theorem test_witness_StepKeepsTheInvariant : (ready unitC13).Inv ∧ ∃ t, step (ready unitC13) = .next t :=
  ⟨by decide +kernel, _, rfl⟩

/-- Program P4: two units, `INIT` waiting on one, `DETLAST` on the other. -/
theorem test_witness_InitRaceHasBothOutcomes :
    (two { UnitState.reset with port := [0x10000000] } { loaded [] 0 0 with port := [0x50000000] }).units[0]? =
      some { UnitState.reset with port := [0x10000000] } ∧
    (two { UnitState.reset with port := [0x10000000] } { loaded [] 0 0 with port := [0x50000000] }).units[1]? =
      some { loaded [] 0 0 with port := [0x50000000] } ∧
    (two UnitState.reset unitC13).initDone = false ∧ (∀ i : Pos, coefFlag (loaded [] 0 0).coefV i = true) := by
  decide +kernel

end Sys2Proof.Tests
end

section
/-! SUPPORT. The Scan Detector's three forms name one position (41_scan_detector.md R91 to R94). -/

namespace Sys2Proof.Machine

theorem descendingPositions_eq_reverse : descendingPositions = allPositions.reverse := rfl

@[simp] theorem indexOf_none : indexOf none = -1 := rfl
@[simp] theorem indexOf_some (i : Pos) : indexOf (some i) = i.val := rfl

theorem indexOf_range (o : Option Pos) : -1 ≤ indexOf o ∧ indexOf o ≤ 15 := by
  cases o with
  | none => simp
  | some i => rw [indexOf_some]; omega

/-- Over positions in rising order, the running maximum of the ones that satisfy `p` is the first hit of the reverse
scan. -/
theorem foldl_max_eq_indexOf_find_reverse (p : Pos → Prop) [DecidablePred p] (l : List Pos)
    (hl : l.Pairwise (· < ·)) :
    l.foldl (fun r i => if p i then max r (i.val : Int) else r) (-1) =
      indexOf (l.reverse.find? (fun i => decide (p i))) := by
  induction l using List.reverseRecOn with
  | nil => rfl
  | append_singleton l a ih =>
    obtain ⟨hl, -, hlt⟩ := List.pairwise_append.mp hl
    rw [List.foldl_append, ih hl, List.reverse_concat, List.find?_cons]
    by_cases hp : p a
    · have hle : indexOf (l.reverse.find? (fun i => decide (p i))) ≤ a.val := by
        cases hf : l.reverse.find? (fun i => decide (p i)) with
        | none => rw [indexOf_none]; omega
        | some b =>
          have hb : b.val < a.val := hlt b (by simpa using List.mem_of_find?_eq_some hf) a (by simp)
          rw [indexOf_some]; omega
      simp [hp, max_eq_right hle]
    · simp [hp]

theorem detectLast_eq_detectLastSeq (coef : Vector (BitVec 16) 16) : detectLast coef = detectLastSeq coef :=
  foldl_max_eq_indexOf_find_reverse (fun i => coef[i] ≠ 0) allPositions (by decide)

theorem getLsbD_foldl_twoPow (p : Pos → Prop) [DecidablePred p] (l : List Pos) (m : BitVec 16) (k : Pos) :
    (l.foldl (fun m i => if p i then m ||| BitVec.twoPow 16 i.val else m) m).getLsbD k.val =
      (m.getLsbD k.val || decide (k ∈ l ∧ p k)) := by
  induction l generalizing m with
  | nil => simp
  | cons a l ih =>
    rw [List.foldl_cons, ih]
    by_cases ha : a = k
    · subst ha
      by_cases hp : p a <;> simp [hp]
    · have hne : k.val ≠ a.val := fun h => ha (Fin.ext h.symm)
      by_cases hp : p a <;> simp [hp, Ne.symm ha, hne]

theorem nonzeroMask_getLsbD (coef : Vector (BitVec 16) 16) (k : Pos) :
    (nonzeroMask coef).getLsbD k.val = decide (coef[k] ≠ 0) := by
  rw [nonzeroMask, getLsbD_foldl_twoPow (fun i => coef[i] ≠ 0)]
  simp [mem_allPositions]

theorem detectLastPar_eq_detectLastSeq (coef : Vector (BitVec 16) 16) : detectLastPar coef = detectLastSeq coef := by
  simp only [detectLastPar, mostSignificant, nonzeroMask_getLsbD, detectLastSeq]

/-- Whichever implementation is selected, the index is the spec's (41_scan_detector.md R94). -/
@[simp] theorem detectLastBy_eq_detectLast (sel : Bool) (coef : Vector (BitVec 16) 16) :
    detectLastBy sel coef = detectLast coef := by
  cases sel
  · exact (detectLast_eq_detectLastSeq coef).symm
  · exact (detectLastPar_eq_detectLastSeq coef).trans (detectLast_eq_detectLastSeq coef).symm

theorem detectLast_range (coef : Vector (BitVec 16) 16) : -1 ≤ detectLast coef ∧ detectLast coef ≤ 15 :=
  detectLast_eq_detectLastSeq coef ▸ indexOf_range _

/-- The five bits of `LAST` hold every index the scan can return (10_state.md R14). -/
theorem toInt_ofInt_detectLast (coef : Vector (BitVec 16) 16) :
    (BitVec.ofInt 5 (detectLast coef)).toInt = detectLast coef := by
  obtain ⟨hlo, hhi⟩ := detectLast_range coef
  exact BitVec.toInt_ofInt_eq_self (by decide) (by omega) (by omega)

end Sys2Proof.Machine
end

section
/-! SUPPORT. What one step can do, said once: an outside move that leaves every register, then at most one command's
effect or a reset (60_exceptions.md R155, 70_reset_and_hazards.md R180). -/

namespace Sys2Proof.Machine

/-- A unit without its port and its response channel. -/
def UnitState.registers (u : UnitState) : UnitState := { u with port := [], responses := [] }

/-- Two states agree on everything but ports, response channels, inputs and the model's own fields. -/
structure State.SameRegisters (s t : State) : Prop where
  cfg : t.cfg = s.cfg
  units : t.units.map UnitState.registers = s.units.map UnitState.registers
  prob : t.prob = s.prob
  costt : t.costt = s.costt
  selDet : t.selDet = s.selDet
  selCost : t.selCost = s.selCost
  initDone : t.initDone = s.initDone

theorem State.SameRegisters.length_units {s t : State} (h : s.SameRegisters t) :
    t.units.length = s.units.length := by
  simpa using congrArg List.length h.units

theorem map_registers_modify (l : List UnitState) (k : Nat) {f : UnitState → UnitState}
    (hf : ∀ u, (f u).registers = u.registers) :
    (l.modify k f).map UnitState.registers = l.map UnitState.registers := by
  refine List.ext_getElem (by simp) fun i _ _ => ?_
  by_cases hk : k = i <;> simp [hk, hf]

theorem map_registers_mapIdx (l : List UnitState) {f : Nat → UnitState → UnitState}
    (hf : ∀ k u, (f k u).registers = u.registers) :
    (l.mapIdx f).map UnitState.registers = l.map UnitState.registers := by
  refine List.ext_getElem (by simp) fun i _ _ => ?_
  simp [hf]

theorem map_registers_set_port {l : List UnitState} {k : Nat} {u : UnitState} (h : l[k]? = some u)
    (ws : List Word) :
    (l.set k { u with port := ws }).map UnitState.registers = l.map UnitState.registers := by
  refine List.ext_getElem (by simp) fun i _ _ => ?_
  by_cases hk : k = i
  · subst hk
    obtain ⟨-, rfl⟩ := List.getElem?_eq_some_iff.mp h
    simp [UnitState.registers]
  · simp [hk]

theorem State.SameRegisters.accept {s t : State} {k : Nat} {u : UnitState} (h : s.SameRegisters t)
    (hu : t.units[k]? = some u) (ws : List Word) : s.SameRegisters (t.accept k u ws) :=
  { h with units := (map_registers_set_port hu ws).trans h.units }

theorem State.SameRegisters.abandon {s t : State} (h : s.SameRegisters t) (busy : List Nat) :
    s.SameRegisters (t.abandon busy) := by
  refine { h with units := (map_registers_mapIdx _ fun k u => ?_).trans h.units }
  split <;> rfl

/-- Everything a raw word can do is one command's effect on the unit that takes it. -/
theorem runWord_effect {w : Word} {s t : State} (h : runWord w s = .next t) :
    ∃ u w', s.unit = some u ∧ Effect s u w' t := by
  obtain ⟨i, -, hi⟩ | ⟨u, c, hu, ⟨-, ht⟩ | ⟨-, ht⟩⟩ := runWord_cases h
  · obtain ⟨u, hu, ⟨-, ht | ⟨_, v, -, -, -, ht⟩⟩ | ⟨-, he⟩⟩ := exec_cases hi
    · exact ⟨u, w, hu, .nothing ht⟩
    · exact ⟨u, w, hu, .answer v ht⟩
    · exact ⟨u, _, hu, he⟩
  · exact ⟨u, w, hu, .nothing ht⟩
  · exact ⟨u, w, hu, .fault _ ht⟩

/-- What a step can do: the outside moves and every register stays, a unit executes a word after such a move, or the
block is reset after one. -/
inductive StepResult (s t : State) : Prop where
  | move (h : s.SameRegisters t)
  | command (m : State) (u : UnitState) (w : Word) (hm : s.SameRegisters m) (hu : m.unit = some u)
      (he : Effect m u w t)
  | reset (m : State) (hr : s.resetsNext) (hm : s.SameRegisters m) (ht : t = m.applyReset)

theorem serve_result {k : Nat} {s m t : State} (hm : s.SameRegisters m) (h : serve k m = .next t) :
    StepResult s t := by
  obtain rfl | ⟨u, w, ws, hu, -, hw⟩ := serve_cases h
  · exact .move hm
  · obtain ⟨v, w', hv, he⟩ := runWord_effect hw
    exact .command _ v w' (hm.accept hu ws) hv he

/-- The inversion lemma of an event. -/
theorem handleEvent_result {s t : State} {e : Event} {es : List Event} (hs : s.events = e :: es)
    (h : handleEvent e { s with events := es } = .next t) : StepResult s t := by
  have hm : s.SameRegisters { s with events := es } := ⟨rfl, rfl, rfl, rfl, rfl, rfl, rfl⟩
  cases e with
  | grant k => exact serve_result hm h
  | present k w =>
    cases h
    exact .move { hm with units := map_registers_modify _ _ fun _ => rfl }
  | drain k =>
    cases h
    exact .move { hm with units := map_registers_modify _ _ fun _ => rfl }
  | driveCap level =>
    cases h
    exact .move { hm with }
  | reset busy =>
    cases h
    exact .reset _ ⟨busy, es, hs⟩ (hm.abandon busy) rfl

/-- The inversion lemma of `step`. -/
theorem step_result {s t : State} (h : step s = .next t) : StepResult s t := by
  have hs : s.SameRegisters s := ⟨rfl, rfl, rfl, rfl, rfl, rfl, rfl⟩
  obtain ⟨-, rfl | ⟨k, hk⟩ | ⟨k, hk⟩⟩ | ⟨e, es, he, hh⟩ := advance_cases h
  · exact .move hs
  · exact serve_result hs hk
  · exact serve_result (m := { s with draws := s.draws + 1 }) { hs with } hk
  · exact handleEvent_result he hh

end Sys2Proof.Machine
end

section
/-! PROOFS. The configuration, the shared flags and the invariant over a step (10_state.md R14, R19 to R21, R28, R29). -/

namespace Sys2Proof.Machine

theorem UnitState.reset_inv : UnitState.reset.Inv := by decide

theorem UnitState.applyReset_inv (u : UnitState) : u.applyReset.Inv := UnitState.reset_inv

section UnitInvariant

variable {u : UnitState} (h : u.Inv)
include h

/-- A write of a coefficient takes `LAST`'s value away, so that nothing is claimed of it (10_state.md R29). -/
theorem UnitState.clearCoefs_inv : u.clearCoefs.Inv := ⟨nofun, h.2⟩

theorem UnitState.setCoef_inv (i : Pos) (v : BitVec 16) : (u.setCoef i v).Inv := ⟨nofun, h.2⟩

theorem UnitState.latch_inv (w : Word) (r : Raise) : (u.latch w r).Inv := by
  obtain ⟨hmatch, hrange, -⟩ := h
  obtain ⟨hlo, hhi⟩ := causeCode_range r.cause
  refine ⟨hmatch, hrange, nofun, fun _ => ⟨hlo, hhi, ?_⟩⟩
  rw [latch_fpos, BitVec.toNat_ofNat]
  omega

theorem UnitState.setLast_inv (hc : coefAllV u.coefV = true) : (u.setLast (detectLast u.coef)).Inv := by
  obtain ⟨-, -, hfault⟩ := h
  have hlast : (u.setLast (detectLast u.coef)).last.toInt = detectLast u.coef := toInt_ofInt_detectLast u.coef
  refine ⟨fun _ => ⟨hc, hlast⟩, ?_, hfault⟩
  rw [UnitState.lastInRange, hlast]
  exact detectLast_range u.coef

end UnitInvariant

/-- The four kinds of writes a command makes; a write to the unit keeps the unit's invariant. -/
inductive CommandWrite (s : State) (u : UnitState) (t : State) : Prop where
  | unit (v : UnitState) (hv : u.Inv → v.Inv) (h : t = s.setUnit v)
  | strategy (h : t = s.setStrategy)
  | prob (b : Band) (c : Ctx) (v : BitVec 8) (hb : b.val < s.cfg.numBands) (h : t = s.writeProb b c v)
  | costt (b : Band) (c : Ctx) (l : Level) (v : BitVec 16) (hb : b.val < s.cfg.numBands)
      (h : t = s.writeCostt b c l v)

theorem Effect.write {s t : State} {u : UnitState} {w : Word} (hu : s.unit = some u) (h : Effect s u w t) :
    CommandWrite s u t := by
  cases h with
  | nothing h => exact .unit u id (h.trans (setUnit_self hu).symm)
  | fault r h => exact .unit _ (fun hi => UnitState.latch_inv hi w r) h
  | strategy h => exact .strategy h
  | clear h => exact .unit _ UnitState.clearCoefs_inv h
  | coef i v h => exact .unit _ (fun hi => UnitState.setCoef_inv hi i v) h
  | first v h => exact .unit (u.setFirst v) id h
  | scan r hr h =>
    obtain ⟨-, hc, hdet⟩ := detlastIndex_ok hr
    rw [detectLastBy_eq_detectLast] at hdet
    subst hdet
    exact .unit ((u.setLast _).respond _) (fun hi => UnitState.setLast_inv hi hc) h
  | cost c total _ h => exact .unit ((u.setResult total).respond total) id h
  | answer v h => exact .unit (u.respond v) id h
  | prob b c v hb h => exact .prob b c v hb h
  | costt b c l v hb h => exact .costt b c l v hb h

/-! ### The invariant of the state -/

theorem State.SameRegisters.inv {s t : State} (h : s.SameRegisters t) (hs : s.Inv) : t.Inv := by
  obtain ⟨hcfg, hlen, hunits, htables, hstrat⟩ := hs
  refine ⟨h.cfg ▸ hcfg, ?_, fun v hv => ?_, ?_, ?_⟩
  · rw [h.length_units, hlen, h.cfg]
  · obtain ⟨u, hu, huv⟩ := List.mem_map.mp (h.units ▸ List.mem_map_of_mem hv)
    have hinv : u.registers.Inv := hunits u hu
    rw [huv] at hinv
    exact hinv
  · rw [State.tablesOk, h.prob, h.costt, h.cfg]
    exact htables
  · rw [State.strategyConsistent, h.initDone, h.selDet, h.selCost]
    exact hstrat

theorem mem_units_of_unit {s : State} {u : UnitState} (h : s.unit = some u) : u ∈ s.units :=
  List.mem_of_getElem? h

theorem CommandWrite.inv {s t : State} {u : UnitState} (hu : s.unit = some u) (h : CommandWrite s u t)
    (hs : s.Inv) : t.Inv := by
  obtain ⟨hcfg, hlen, hunits, htables, hstrat⟩ := hs
  obtain ⟨hprob, hcostt, hprobB, hcosttB⟩ := htables
  cases h with
  | unit v hv h =>
    subst h
    refine ⟨hcfg, (length_setUnit s v).trans hlen, fun x hx => ?_, ⟨hprob, hcostt, hprobB, hcosttB⟩, hstrat⟩
    obtain rfl | hx := mem_setUnit hx
    · exact hv (hunits u (mem_units_of_unit hu))
    · exact hunits x hx
  | strategy h =>
    subst h
    exact ⟨hcfg, hlen, hunits, ⟨hprob, hcostt, hprobB, hcosttB⟩, fun _ => rfl⟩
  | prob b c v hb h =>
    subst h
    refine ⟨hcfg, hlen, hunits, ⟨writeProb_wf s b c v hprob, hcostt, fun e he => ?_, hcosttB⟩, hstrat⟩
    obtain rfl | he := mem_write _ _ _ e he
    · simp only [probEntry, writeProb_cfg]
      omega
    · exact hprobB e he
  | costt b c l v hb h =>
    subst h
    refine ⟨hcfg, hlen, hunits, ⟨hprob, writeCostt_wf s b c l v hcostt, hprobB, fun e he => ?_⟩, hstrat⟩
    obtain rfl | he := mem_write _ _ _ e he
    · simp only [costtEntry, writeCostt_cfg]
      omega
    · exact hcosttB e he

theorem State.tablesOk_of_empty {s : State} (hp : s.prob = []) (hc : s.costt = []) : s.tablesOk := by
  simp [State.tablesOk, hp, hc]

theorem State.applyReset_inv {s : State} (hs : s.Inv) : s.applyReset.Inv := by
  obtain ⟨hcfg, hlen, -⟩ := hs
  refine ⟨hcfg, by simpa using hlen, fun v hv => ?_, State.tablesOk_of_empty rfl rfl, nofun⟩
  obtain ⟨u, -, rfl⟩ := List.mem_map.mp hv
  exact u.applyReset_inv

/-- Settles O52: outside moves leave the registers, the four kinds of writes and reset keep the invariant. -/
theorem stepKeepsTheInvariant : Obligations.StepKeepsTheInvariant := by
  intro s t hs hstep
  cases step_result hstep with
  | move h => exact h.inv hs
  | command m u w hm hu he => exact (he.write hu).inv hu (hm.inv hs)
  | reset m _ hm ht => exact ht ▸ State.applyReset_inv (hm.inv hs)

theorem State.initial_inv {c : Config} (cap : Bool) (hc : c.Ok) : (State.initial c cap).Inv := by
  refine ⟨hc, List.length_replicate, fun u hu => ?_, State.tablesOk_of_empty rfl rfl, nofun⟩
  rw [List.eq_of_mem_replicate hu]
  exact UnitState.reset_inv

theorem configDefault_ok : Config.default.Ok :=
  ⟨by decide, by decide, by decide, fun n => Config.default.band[n].isLt, by simp [Config.default]⟩

/-- Settles O51: the default configuration is one the spec allows. -/
theorem resetMeetsTheInvariant : Obligations.ResetMeetsTheInvariant :=
  ⟨State.initial_inv _ configDefault_ok, fun _ cap hc => State.initial_inv cap hc⟩

/-! ### Configuration and shared flags -/

theorem CommandWrite.cfg_length {s t : State} {u : UnitState} (h : CommandWrite s u t) :
    t.cfg = s.cfg ∧ t.units.length = s.units.length := by
  cases h with
  | unit v _ h => exact h ▸ ⟨rfl, length_setUnit s v⟩
  | strategy h | prob _ _ _ _ h | costt _ _ _ _ _ h => exact h ▸ ⟨rfl, rfl⟩

theorem StepResult.cfg_length {s t : State} (h : StepResult s t) :
    t.cfg = s.cfg ∧ t.units.length = s.units.length := by
  cases h with
  | move h => exact ⟨h.cfg, h.length_units⟩
  | command m u w hm hu he =>
    obtain ⟨hcfg, hlen⟩ := (he.write hu).cfg_length
    exact ⟨hcfg.trans hm.cfg, hlen.trans hm.length_units⟩
  | reset m _ hm ht =>
    subst ht
    exact ⟨hm.cfg, by simpa using hm.length_units⟩

/-- Settles O47: no case of `StepResult` writes the configuration or the number of units. -/
theorem configurationIsConstant : Obligations.ConfigurationIsConstant :=
  fun _ _ h => (step_result h).cfg_length

/-- `INIT_DONE` and the valid flags that are set in `s` are set in `t` (10_state.md R21, 20_memory.md R42). -/
def State.KeepsFlags (s t : State) : Prop :=
  (s.initDone = true → t.initDone = true) ∧
  (∀ a, (Memory.read s.prob a).isSome = true → (Memory.read t.prob a).isSome = true) ∧
  (∀ a, (Memory.read s.costt a).isSome = true → (Memory.read t.costt a).isSome = true)

theorem read_write_isSome {width : Nat} (m : Memory width) (i : Nat) (x : BitVec width) {a : Nat}
    (h : (Memory.read m a).isSome = true) : (Memory.read (Memory.write m i x) a).isSome = true := by
  by_cases ha : a = i
  · simp [ha]
  · rwa [read_write_other m x ha]

theorem CommandWrite.keepsFlags {s t : State} {u : UnitState} (h : CommandWrite s u t) : s.KeepsFlags t := by
  cases h with
  | unit v _ h => exact h ▸ ⟨id, fun _ => id, fun _ => id⟩
  | strategy h => exact h ▸ ⟨fun _ => rfl, fun _ => id, fun _ => id⟩
  | prob b c v _ h => exact h ▸ ⟨id, fun _ => read_write_isSome _ _ _, fun _ => id⟩
  | costt b c l v _ h => exact h ▸ ⟨id, fun _ => id, fun _ => read_write_isSome _ _ _⟩

theorem State.SameRegisters.keepsFlags_iff {s m t : State} (h : s.SameRegisters m) :
    s.KeepsFlags t ↔ m.KeepsFlags t := by
  simp only [State.KeepsFlags, h.initDone, h.prob, h.costt]

/-- Settles O48: a table write only adds an entry, and `INIT` only sets `INIT_DONE`. -/
theorem sharedFlagsStaySet : Obligations.SharedFlagsStaySet := by
  intro s t hreset hstep
  cases step_result hstep with
  | move h => exact h.keepsFlags_iff.mpr ⟨id, fun _ => id, fun _ => id⟩
  | command m u w hm hu he => exact hm.keepsFlags_iff.mpr (he.write hu).keepsFlags
  | reset _ hr => exact absurd hr hreset

/-! ### What reset leaves -/

theorem UnitState.reset_noValue : UnitState.reset.noValue := by
  simp [UnitState.noValue, UnitState.reset]

theorem State.initial_noValue (c : Config) (cap : Bool) : (State.initial c cap).noValue := by
  refine ⟨fun u hu => ?_, rfl, fun _ => rfl, fun _ => rfl⟩
  rw [List.eq_of_mem_replicate hu]
  exact UnitState.reset_noValue

theorem State.applyReset_noValue (s : State) : s.applyReset.noValue := by
  refine ⟨fun v hv => ?_, rfl, fun _ => rfl, fun _ => rfl⟩
  obtain ⟨u, -, rfl⟩ := List.mem_map.mp hv
  exact UnitState.reset_noValue

theorem step_of_event {s : State} {e : Event} {es : List Event} (h : s.events = e :: es) :
    step s = handleEvent e { s with events := es } := by
  simp only [step, advance, h]

/-- Settles O49: power-on and the reset event leave every unit as `UnitState.reset` but for its port. -/
theorem resetLeavesNoValue : Obligations.ResetLeavesNoValue := by
  refine ⟨fun c cap => ⟨State.initial_noValue c cap, rfl, List.length_replicate⟩, fun s busy es hs => ?_⟩
  have hstep : step s = .next (({ s with events := es } : State).abandon busy).applyReset := step_of_event hs
  exact ⟨_, hstep, State.applyReset_noValue _, (step_result hstep).cfg_length⟩

end Sys2Proof.Machine
end

section
/-! PROOFS. The registers `RDREG` reads: the layouts of `STATUS`, `FAULT`, `STRAT`, `PARAMS` and the register map
(10_state.md R18 to R25). -/

namespace Sys2Proof.Machine

theorem toNat_append_eq_add {m n : Nat} (x : BitVec m) (y : BitVec n) :
    (x ++ y).toNat = x.toNat * 2 ^ n + y.toNat := by
  rw [BitVec.toNat_append, ← Nat.shiftLeft_add_eq_or_of_lt y.isLt, Nat.shiftLeft_eq]

/-- `STATUS` with its width written as the sum of its fields' widths. -/
theorem statusWord_eq_append (d : Bool) (u : UnitState) : statusWord d u =
    (u.coefV ++ 0#10 ++ BitVec.ofBool (coefAllV u.coefV) ++ BitVec.ofBool u.resultV ++ BitVec.ofBool u.lastV ++
      BitVec.ofBool u.firstV ++ BitVec.ofBool d ++ BitVec.ofBool u.faulted :
        BitVec (16 + 10 + 1 + 1 + 1 + 1 + 1 + 1)) := rfl

/-- Bits 5 to 0 are the unit's flags and `INIT_DONE`, bits 15 to 6 are 0, the upper half is `COEFV` (10_state.md R18). -/
theorem getLsbD_statusWord (d : Bool) (u : UnitState) (k : Nat) : (statusWord d u).getLsbD k =
    if k < 16 then [u.faulted, d, u.firstV, u.lastV, u.resultV, coefAllV u.coefV].getD k false
    else u.coefV.getLsbD (k - 16) := by
  rw [statusWord_eq_append]
  iterate 7 rw [BitVec.getLsbD_append]
  match k with
  | 0 | 1 | 2 | 3 | 4 | 5 => simp
  | k + 6 =>
    by_cases hk : k < 10
    · simp [hk]
    · simp [hk, Nat.le_of_not_lt hk]

/-- Settles O31: each clause is one case of `getLsbD_statusWord`. -/
theorem statusBits : Obligations.StatusBits := by
  refine ⟨by decide, fun d u => ?_⟩
  simp only [getLsbD_statusWord, ← coefAllV_iff]
  refine ⟨rfl, rfl, rfl, rfl, rfl, Iff.rfl, fun k hlo hhi => ?_, fun i => ?_⟩
  · rw [if_pos (by omega)]
    exact List.getD_eq_default _ _ hlo
  · simp [coefFlag]

/-- Settles O32: a word made of fields is the sum of its fields at their weights. -/
theorem faultStratParamsLayout : Obligations.FaultStratParamsLayout := by
  refine ⟨fun u => ?_, fun d c => ?_, fun c => ?_⟩
  · calc (faultWord u).toNat = (0#23 ++ u.fpos).toNat * 2 ^ 4 + u.fcause.toNat := toNat_append_eq_add _ _
      _ = u.fpos.toNat * 2 ^ 4 + u.fcause.toNat := by rw [toNat_append_eq_add]; simp
  · calc (stratWord d c).toNat = (0#30 ++ BitVec.ofBool c).toNat * 2 ^ 1 + (BitVec.ofBool d).toNat :=
          toNat_append_eq_add _ _
      _ = c.toNat * 2 + d.toNat := by rw [toNat_append_eq_add]; simp
  · calc (paramsWord c).toNat =
          (0#4 ++ BitVec.ofNat 8 c.nUnits ++ BitVec.ofNat 4 c.numBands).toNat * 2 ^ 16 +
            (BitVec.ofNat 16 c.maxLevel).toNat := toNat_append_eq_add _ _
      _ = (c.nUnits % 256 * 2 ^ 4 + c.numBands % 16) * 2 ^ 16 + c.maxLevel % 65536 := by
          rw [toNat_append_eq_add, toNat_append_eq_add]; simp
      _ = c.nUnits % 256 * 2 ^ 20 + c.numBands % 16 * 2 ^ 16 + c.maxLevel % 65536 := by omega

theorem regOfBits_eq (b : BitVec 6) : regOfBits b =
    if h : b.toNat < 10 then
      some ([Reg.status, .first, .last, .result, .fault, .finfo, .strat, .cap, .unitId, .params][b.toNat])
    else if h : 16 ≤ b.toNat ∧ b.toNat < 32 then some (.coef ⟨b.toNat - 16, by omega⟩) else none := by
  revert b; decide

theorem readableWhileFaulted_iff (reg : Reg) :
    readableWhileFaulted reg = true ↔ (regNumber reg).toNat ∈ [0, 4, 5, 7, 8, 9] := by
  cases reg with
  | coef i => revert i; decide
  | _ => decide

/-- Settles O33: the 64 numbers and the registers are enumerated; the values hold by `regValue`'s own rows. -/
theorem registerMap : Obligations.RegisterMap := by
  refine ⟨regOfBits_eq, readableWhileFaulted_iff, fun s u => ?_⟩
  refine ⟨rfl, ?_, rfl, rfl, rfl, rfl, rfl, ?_, rfl, rfl, fun i => rfl⟩
  · simp [regValue]
  · cases h : s.cap <;> simp [regValue, h]

end Sys2Proof.Machine
end

section
/-! PROOFS. How a step takes a word from a port, and what it leaves alone: the byte image of a word, the serving of one
unit, and two units racing `INIT` against `DETLAST` (20_memory.md R48, R52; 60_exceptions.md R155, R163, R173;
95_test_vectors.md P4). -/

namespace Sys2Proof.Machine

theorem append_bytes_eq (w : Word) :
    w.extractLsb' 24 8 ++ w.extractLsb' 16 8 ++ w.extractLsb' 8 8 ++ w.extractLsb' 0 8 = w := by
  rw [BitVec.extractLsb'_append_extractLsb'_eq_extractLsb' (show 24 = 16 + 8 from rfl),
    BitVec.extractLsb'_append_extractLsb'_eq_extractLsb' (show 16 = 8 + 8 from rfl),
    BitVec.extractLsb'_append_extractLsb'_eq_extractLsb' (show 8 = 0 + 8 from rfl)]
  exact BitVec.extractLsb'_eq_self

/-- Settles O10: the four bytes, put back in order, are the word. -/
theorem commandBytesAreLittleEndian : Obligations.CommandBytesAreLittleEndian := by
  intro nb w rest
  simp only [decodeBytes, append_bytes_eq]

/-! ### Taking a word from a port -/

theorem serve_of_port {s : State} {k : Nat} {u : UnitState} {w : Word} {ws : List Word}
    (hu : s.units[k]? = some u) (hp : u.port = w :: ws) : serve k s = runWord w (s.accept k u ws) := by
  simp only [serve, hu, hp]

theorem runWord_of_decode {s : State} {w : Word} {i : Instr} (h : decode s.cfg.numBands w = .command i) :
    runWord w s = exec i s := by
  simp only [runWord, h]

/-- A unit whose port alone holds a word is the only waiting one. -/
theorem waiting_eq_singleton {s : State} {k : Nat} {u : UnitState} {w : Word} {ws : List Word}
    (hu : s.units[k]? = some u) (hp : u.port = w :: ws)
    (halone : ∀ (j : Nat) (v : UnitState), s.units[j]? = some v → j ≠ k → v.port = []) : s.waiting = [k] := by
  have hk : k ∈ List.range s.units.length := List.mem_range.mpr (List.getElem?_eq_some_iff.mp hu).1
  have hwaits : ∀ j, (s.units[j]?.map (fun u => !u.port.isEmpty)).getD false = (j == k) := by
    intro j
    by_cases hj : j = k
    · simp [hj, hu, hp]
    · cases hv : s.units[j]? with
      | none => simp [hj]
      | some v => simp [hj, halone j v hv hj]
  simp only [State.waiting, hwaits]
  rw [List.filter_beq, List.count_eq_one_of_mem List.nodup_range hk, List.replicate_one]

theorem step_of_alone {s : State} {k : Nat} (he : s.events = []) (hw : s.waiting = [k]) : step s = serve k s := by
  simp only [step, advance, he, serveWaiting, hw]

/-- Settles O42: a grant, or being the only waiting unit, makes the step serve the unit, which takes its head word. -/
theorem stepRunsTheDecodedCommand : Obligations.StepRunsTheDecodedCommand := by
  intro s s' k u w ws hu hp hserved
  have hrun : step s = runWord w s' ∧ s'.cfg = s.cfg := by
    obtain ⟨es, he, rfl⟩ | ⟨he, halone, rfl⟩ := hserved
    · exact ⟨(step_of_event he).trans (serve_of_port hu hp), rfl⟩
    · exact ⟨(step_of_alone he (waiting_eq_singleton hu hp halone)).trans (serve_of_port hu hp), rfl⟩
  obtain ⟨hstep, hcfg⟩ := hrun
  exact ⟨hstep, fun i hi => hstep.trans (runWord_of_decode (hcfg ▸ hi))⟩

/-! ### The units that are not served -/

theorem units_accept_other (s : State) (u : UnitState) (ws : List Word) {k j : Nat} (h : j ≠ k) :
    (s.accept k u ws).units[j]? = s.units[j]? := by
  simp [h.symm]

theorem CommandWrite.units_other {s t : State} {u : UnitState} (h : CommandWrite s u t) {j : Nat} (hj : j ≠ s.cur) :
    t.units[j]? = s.units[j]? := by
  cases h with
  | unit v _ h => exact h ▸ units_setUnit_other s v hj
  | strategy h | prob _ _ _ _ h | costt _ _ _ _ _ h => exact h ▸ rfl

theorem serve_units_other {s t : State} {k j : Nat} (h : serve k s = .next t) (hj : j ≠ k) :
    t.units[j]? = s.units[j]? := by
  obtain rfl | ⟨u, w, ws, -, -, hw⟩ := serve_cases h
  · rfl
  · obtain ⟨v, w', hv, he⟩ := runWord_effect hw
    exact ((he.write hv).units_other hj).trans (units_accept_other s u ws hj)

/-- Settles O46: taking the word and every kind of write a command makes touch the served unit's place only. -/
theorem servingTouchesOneUnit : Obligations.ServingTouchesOneUnit := by
  intro s t k j es he hstep hj
  have hserve : serve k { s with events := es } = .next t := (step_of_event he).symm.trans hstep
  exact (serve_units_other hserve hj :)

/-! ### `INIT` racing `DETLAST` -/

theorem decode_init (nb : Nat) : decode nb 0x10000000 = .command .init := rfl

theorem decode_detlast (nb : Nat) : decode nb 0x50000000 = .command .detlast := rfl

theorem execDetlast_notInit {s : State} {u : UnitState} (hu : s.unit = some u) (hf : u.faulted = false)
    (hd : s.initDone = false) : execDetlast s = .next (s.takeFault u (encode .detlast) ⟨.notInit, 0⟩) := by
  have hindex : detlastIndex s u = .error ⟨.notInit, 0⟩ := by simp [detlastIndex, hd]
  rw [detlast_running hu hf, hindex]

theorem execDetlast_complete {s : State} {u : UnitState} (hu : s.unit = some u) (hf : u.faulted = false)
    (hd : s.initDone = true) (hc : ∀ i : Pos, coefFlag u.coefV i = true) :
    execDetlast s =
      .next (s.setUnit ((u.setLast (detectLast u.coef)).respond (BitVec.ofInt 32 (detectLast u.coef)))) := by
  have hnone : lowestUnwritten u.coefV = none := (lowestUnwritten_none _).mpr ((coefAllV_iff _).mpr hc)
  have hindex : detlastIndex s u = .ok (detectLast u.coef) := by simp [detlastIndex, hd, hnone]
  rw [detlast_running hu hf, hindex]

theorem step_of_grant {s : State} {k : Nat} {u : UnitState} {w : Word} {ws : List Word} {es : List Event} {i : Instr}
    (he : s.events = .grant k :: es) (hu : s.units[k]? = some u) (hp : u.port = w :: ws)
    (hi : decode s.cfg.numBands w = .command i) :
    step s = exec i (({ s with events := es } : State).accept k u ws) :=
  (stepRunsTheDecodedCommand s _ k u w ws hu hp (.inl ⟨es, he, rfl⟩)).2 i hi

section Grant

variable {s : State} {k : Nat} {u : UnitState} {ws : List Word} {es : List Event}
  (he : s.events = .grant k :: es) (hu : s.units[k]? = some u) (hf : u.faulted = false)
include he hu hf

theorem step_grant_init (hp : u.port = 0x10000000 :: ws) :
    step s = .next (({ s with events := es } : State).accept k u ws).setStrategy := by
  have hunit := unit_accept (s := { s with events := es }) hu ws
  exact (step_of_grant he hu hp (decode_init _)).trans (command_running hunit hf _)

/-- A granted `DETLAST` before `INIT` faults its unit; the events after the grant are still to come. -/
theorem step_grant_detlast_notInit (hp : u.port = 0x50000000 :: ws) (hd : s.initDone = false) :
    ∃ t, step s = .next t ∧ t.events = es ∧
      t.units[k]? = some (({ u with port := ws } : UnitState).latch 0x50000000 ⟨.notInit, 0⟩) := by
  have hunit := unit_accept (s := { s with events := es }) hu ws
  exact ⟨_, (step_of_grant he hu hp (decode_detlast _)).trans (execDetlast_notInit hunit hf hd), rfl,
    unit_setUnit hunit _⟩

/-- A granted `DETLAST` after `INIT` on a complete block answers the index. -/
theorem step_grant_detlast_complete (hp : u.port = 0x50000000 :: ws) (hd : s.initDone = true)
    (hc : ∀ i : Pos, coefFlag u.coefV i = true) :
    ∃ t, step s = .next t ∧ t.initDone = true ∧
      t.units[k]? = some ((({ u with port := ws } : UnitState).setLast (detectLast u.coef)).respond
        (BitVec.ofInt 32 (detectLast u.coef))) := by
  have hunit := unit_accept (s := { s with events := es }) hu ws
  exact ⟨_, (step_of_grant he hu hp (decode_detlast _)).trans (execDetlast_complete hunit hf hd hc), hd,
    unit_setUnit hunit _⟩

end Grant

/-- Settles O53: each order is two granted steps, the first of which leaves the other unit as it was. -/
theorem initRaceHasBothOutcomes : Obligations.InitRaceHasBothOutcomes := by
  intro s u0 u1 ws0 ws1 es hu0 hu1 hp0 hp1 hf0 hf1 hd hc
  constructor
  · intro he
    have hinit := step_grant_init he hu0 hf0 hp0
    have hu1' := (servingTouchesOneUnit s _ 0 1 _ he hinit (by decide)).trans hu1
    obtain ⟨t, hdet, hdone, hv⟩ := step_grant_detlast_complete rfl hu1' hf1 hp1 rfl hc
    exact ⟨_, t, _, hinit, hdet, hv, hf1, toInt_ofInt_detectLast u1.coef, hdone⟩
  · intro he
    obtain ⟨m, hdet, hme, hv⟩ := step_grant_detlast_notInit he hu1 hf1 hp1 hd
    have hu0' := (servingTouchesOneUnit s m 1 0 _ he hdet (by decide)).trans hu0
    have hinit := step_grant_init hme hu0' hf0 hp0
    have hv' := (servingTouchesOneUnit m _ 0 1 _ hme hinit (by decide)).trans hv
    exact ⟨m, _, _, hdet, hinit, hv', rfl, rfl, rfl, rfl⟩

end Sys2Proof.Machine
end

section
/-! PROOFS. The encoding: a word as its fields, the opcode map's rows, and that encoder and decoder are inverse to each
other (30_encoding.md R61 to R72). -/

namespace Sys2Proof.Machine

/-! ### Words as fields -/

theorem append_inj {m n : Nat} {x x' : BitVec m} {y y' : BitVec n} :
    x ++ y = x' ++ y' ↔ x = x' ∧ y = y' := by
  refine ⟨fun h => ⟨?_, ?_⟩, fun ⟨hx, hy⟩ => hx ▸ hy ▸ rfl⟩
  · simpa only [BitVec.extractLsb'_append_eq_left] using congrArg (·.extractLsb' n m) h
  · simpa only [BitVec.extractLsb'_append_eq_right] using congrArg (·.extractLsb' 0 n) h

theorem exists_eq_append {m n : Nat} (w : BitVec (m + n)) : ∃ (x : BitVec m) (y : BitVec n), w = x ++ y :=
  ⟨_, _, BitVec.extractLsb'_append_extractLsb'.symm⟩

/-! ### What each field names -/

theorem opcodeOfBits_eq_none (opc : BitVec 4) : opcodeOfBits opc = none ↔ 10 ≤ opc.toNat := by
  revert opc; decide

theorem ctxOfBits_eq_some {b : BitVec 2} {c : Ctx} : ctxOfBits b = some c ↔ b = BitVec.ofNat 2 c.val := by
  revert b c; decide

theorem ctxOfBits_three : ctxOfBits 3#2 = none := rfl

theorem levelOfBits_eq_some {b : BitVec 7} {l : Level} : levelOfBits b = some l ↔ b = BitVec.ofNat 7 l.val := by
  have hl : l.val < 128 := l.isLt.trans (by decide)
  simp only [levelOfBits, Option.dite_none_right_eq_some, Option.some.injEq, Fin.ext_iff,
    BitVec.toNat_eq, BitVec.toNat_ofNat]
  constructor
  · rintro ⟨-, h⟩; omega
  · intro h; exact ⟨by omega, by omega⟩

theorem levelOfBits_eq_none {b : BitVec 7} : levelOfBits b = none ↔ 67 < b.toNat := by
  simp only [levelOfBits, dite_eq_right_iff, reduceCtorEq, imp_false, Nat.not_lt, Nat.succ_le_iff]

theorem bandOfBits_eq_some {nb : Nat} {b : BitVec 3} {c : Band} :
    bandOfBits nb b = some c ↔ b = BitVec.ofNat 3 c.val ∧ c.val < nb := by
  simp only [bandOfBits, Option.ite_none_right_eq_some, Option.some.injEq, Fin.ext_iff,
    BitVec.toNat_eq, BitVec.toNat_ofNat]
  constructor
  · rintro ⟨_, h⟩; exact ⟨by omega, by omega⟩
  · rintro ⟨h, _⟩; exact ⟨by omega, by omega⟩

theorem bandOfBits_eq_none {nb : Nat} {b : BitVec 3} : bandOfBits nb b = none ↔ nb ≤ b.toNat := by
  simp [bandOfBits]

theorem regOfBits_eq_some {b : BitVec 6} {r : Reg} : regOfBits b = some r ↔ b = regNumber r := by
  have hback : ∀ b : BitVec 6, (regOfBits b).all (fun r => b = regNumber r) = true := by decide
  constructor
  · intro h
    simpa [h] using hback b
  · rintro rfl
    exact regOfBits_regNumber r

theorem regOfBits_eq_none {b : BitVec 6} :
    regOfBits b = none ↔ (10 ≤ b.toNat ∧ b.toNat ≤ 15) ∨ 32 ≤ b.toNat := by
  revert b; decide

/-! ### The rows of the opcode map -/

/-- A word of a row has the row's opcode (30_encoding.md R64). -/
theorem opcodeOfBits_of_match {w : Word} {op : Opcode} (h : w &&& opcodeMask op = opcodeMatch op) :
    opcodeOfBits (w.extractLsb' 28 4) = some op := by
  have hopc : w.extractLsb' 28 4 &&& (opcodeMask op).extractLsb' 28 4 = (opcodeMatch op).extractLsb' 28 4 := by
    rw [← BitVec.extractLsb'_and, h]
  have hones : (opcodeMask op).extractLsb' 28 4 = BitVec.allOnes 4 := by cases op <;> rfl
  rw [hones, BitVec.and_allOnes] at hopc
  rw [hopc]
  cases op <;> rfl

/-- Settles O3: a word of two rows has both rows' opcode, which selects one row. -/
theorem opcodeRowsAreDisjoint : Obligations.OpcodeRowsAreDisjoint := fun _ _ _ ha hb =>
  Option.some.inj ((opcodeOfBits_of_match ha).symm.trans (opcodeOfBits_of_match hb))

theorem decode_of_opcode (nb : Nat) {w : Word} {op : Opcode} {p : Prop} [Decidable p]
    (hop : opcodeOfBits (w.extractLsb' 28 4) = some op) (hp : w &&& opcodeMask op = opcodeMatch op ↔ p) :
    decode nb w = if p then decodeFields nb w op else .illegalCmd := by
  simp only [decode, hop, hp]

/-- The inversion lemma of `decode`: a command's word is in a row, and its fields are the command's. -/
theorem decode_command {nb : Nat} {w : Word} {i : Instr} (h : decode nb w = .command i) :
    ∃ op, w &&& opcodeMask op = opcodeMatch op ∧ decodeFields nb w op = .command i := by
  unfold decode at h
  split at h
  · cases h
  · split at h
    · exact ⟨_, ‹_›, h⟩
    · cases h

theorem matches_formatZ {op : Opcode} (hmask : opcodeMask op = BitVec.allOnes 32) (w : Word) :
    w &&& opcodeMask op = opcodeMatch op ↔ w = opcodeMatch op := by
  rw [hmask, BitVec.and_allOnes]

/-- The mask of formats F, X and R covers `OPC` and the must-be-zero field after it (30_encoding.md R61). -/
theorem append_and_mask_eq_iff {a b : Nat} (opc k : BitVec 4) (m : BitVec a) (x : BitVec b) :
    (opc ++ m ++ x) &&& (BitVec.allOnes 4 ++ BitVec.allOnes a ++ 0#b) = k ++ 0#a ++ 0#b ↔ opc = k ∧ m = 0 := by
  simp [append_inj, -BitVec.reduceAllOnes]

theorem matches_setfirst (opc : BitVec 4) (m : BitVec 24) (first : BitVec 4) :
    (opc ++ m ++ first) &&& opcodeMask .setfirst = opcodeMatch .setfirst ↔ opc = 4 ∧ m = 0 :=
  append_and_mask_eq_iff opc 4 m first

theorem matches_cost (opc : BitVec 4) (m : BitVec 26) (ctx0 : BitVec 2) :
    (opc ++ m ++ ctx0) &&& opcodeMask .cost = opcodeMatch .cost ↔ opc = 6 ∧ m = 0 :=
  append_and_mask_eq_iff opc 6 m ctx0

theorem matches_rdreg (opc : BitVec 4) (m : BitVec 22) (reg : BitVec 6) :
    (opc ++ m ++ reg) &&& opcodeMask .rdreg = opcodeMatch .rdreg ↔ opc = 7 ∧ m = 0 :=
  append_and_mask_eq_iff opc 7 m reg

theorem matches_ldcoef (opc : BitVec 4) (m : BitVec 8) (idx : BitVec 4) (val : BitVec 16) :
    (opc ++ m ++ idx ++ val) &&& opcodeMask .ldcoef = opcodeMatch .ldcoef ↔ opc = 3 ∧ m = 0 := by
  show (opc ++ m ++ idx ++ val) &&& (BitVec.allOnes 4 ++ BitVec.allOnes 8 ++ 0#4 ++ 0#16) =
    3#4 ++ 0#8 ++ 0#4 ++ 0#16 ↔ _
  simp [append_inj, -Nat.reduceAdd, -BitVec.reduceAppend, -BitVec.reduceAllOnes]

theorem matches_ldprob (opc : BitVec 4) (band : BitVec 3) (ctx : BitVec 2) (m : BitVec 15) (val : BitVec 8) :
    (opc ++ band ++ ctx ++ m ++ val) &&& opcodeMask .ldprob = opcodeMatch .ldprob ↔ opc = 8 ∧ m = 0 := by
  show (opc ++ band ++ ctx ++ m ++ val) &&& (BitVec.allOnes 4 ++ 0#3 ++ 0#2 ++ BitVec.allOnes 15 ++ 0#8) =
    8#4 ++ 0#3 ++ 0#2 ++ 0#15 ++ 0#8 ↔ _
  simp [append_inj, -Nat.reduceAdd, -BitVec.reduceAppend, -BitVec.reduceAllOnes]

theorem matches_ldcostt (opc : BitVec 4) (band : BitVec 3) (ctx : BitVec 2) (level : BitVec 7) (val : BitVec 16) :
    (opc ++ band ++ ctx ++ level ++ val) &&& opcodeMask .ldcostt = opcodeMatch .ldcostt ↔ opc = 9 := by
  show (opc ++ band ++ ctx ++ level ++ val) &&& (BitVec.allOnes 4 ++ 0#3 ++ 0#2 ++ 0#7 ++ 0#16) =
    9#4 ++ 0#3 ++ 0#2 ++ 0#7 ++ 0#16 ↔ _
  simp [append_inj, -Nat.reduceAdd, -BitVec.reduceAppend, -BitVec.reduceAllOnes]

/-! ### The fields of a row's word -/

section Fields

variable (nb : Nat) (opc : BitVec 4)

theorem decodeFields_ldcoef (m : BitVec 8) (idx : BitVec 4) (val : BitVec 16) :
    decodeFields nb (opc ++ m ++ idx ++ val) .ldcoef = .command (.ldcoef idx.toFin val) := by
  simp [decodeFields, BitVec.extractLsb'_append_eq_of_le, BitVec.extractLsb'_append_eq_of_add_le, -Nat.reduceAdd]

theorem decodeFields_setfirst (m : BitVec 24) (first : BitVec 4) :
    decodeFields nb (opc ++ m ++ first) .setfirst = .command (.setfirst first) := by
  simp [decodeFields, BitVec.extractLsb'_append_eq_of_add_le, -Nat.reduceAdd]

theorem decodeFields_cost (m : BitVec 26) (ctx0 : BitVec 2) :
    decodeFields nb (opc ++ m ++ ctx0) .cost =
      ((ctxOfBits ctx0).map (fun c => .command (.cost c))).getD .illegalOperand := by
  simp only [decodeFields, BitVec.extractLsb'_append_eq_right]
  cases ctxOfBits ctx0 <;> rfl

theorem decodeFields_rdreg (m : BitVec 22) (reg : BitVec 6) :
    decodeFields nb (opc ++ m ++ reg) .rdreg =
      ((regOfBits reg).map (fun r => .command (.rdreg r))).getD .illegalCmd := by
  simp only [decodeFields, BitVec.extractLsb'_append_eq_right]
  cases regOfBits reg <;> rfl

theorem decodeFields_ldprob (band : BitVec 3) (ctx : BitVec 2) (m : BitVec 15) (val : BitVec 8) :
    decodeFields nb (opc ++ band ++ ctx ++ m ++ val) .ldprob =
      ((bandOfBits nb band).bind fun b => (ctxOfBits ctx).map fun c =>
        .command (.ldprob b c val)).getD .illegalOperand := by
  simp only [decodeFields, BitVec.extractLsb'_append_eq_of_le, BitVec.extractLsb'_append_eq_right, Nat.reduceLeDiff,
    Nat.reduceSub]
  cases bandOfBits nb band <;> cases ctxOfBits ctx <;> rfl

theorem decodeFields_ldcostt (band : BitVec 3) (ctx : BitVec 2) (level : BitVec 7) (val : BitVec 16) :
    decodeFields nb (opc ++ band ++ ctx ++ level ++ val) .ldcostt =
      ((bandOfBits nb band).bind fun b => (ctxOfBits ctx).bind fun c => (levelOfBits level).map fun l =>
        .command (.ldcostt b c l val)).getD .illegalOperand := by
  simp only [decodeFields, BitVec.extractLsb'_append_eq_of_le, BitVec.extractLsb'_append_eq_right, Nat.reduceLeDiff,
    Nat.reduceSub]
  cases bandOfBits nb band <;> cases ctxOfBits ctx <;> cases levelOfBits level <;> rfl

variable {nb opc} {i : Instr}

theorem decodeFields_cost_eq_command {m : BitVec 26} {ctx0 : BitVec 2} :
    decodeFields nb (opc ++ m ++ ctx0) .cost = .command i ↔
      ∃ c : Ctx, ctx0 = BitVec.ofNat 2 c.val ∧ .cost c = i := by
  simp [decodeFields_cost, Option.getD_eq_iff, ctxOfBits_eq_some]

theorem decodeFields_rdreg_eq_command {m : BitVec 22} {reg : BitVec 6} :
    decodeFields nb (opc ++ m ++ reg) .rdreg = .command i ↔ ∃ r : Reg, reg = regNumber r ∧ .rdreg r = i := by
  simp [decodeFields_rdreg, Option.getD_eq_iff, regOfBits_eq_some]

theorem decodeFields_ldprob_eq_command {band : BitVec 3} {ctx : BitVec 2} {m : BitVec 15} {val : BitVec 8} :
    decodeFields nb (opc ++ band ++ ctx ++ m ++ val) .ldprob = .command i ↔
      ∃ b : Band, (band = BitVec.ofNat 3 b.val ∧ b.val < nb) ∧ ∃ c : Ctx, ctx = BitVec.ofNat 2 c.val ∧
        .ldprob b c val = i := by
  simp [decodeFields_ldprob, Option.getD_eq_iff, Option.bind_eq_some_iff, ctxOfBits_eq_some, bandOfBits_eq_some]

theorem decodeFields_ldcostt_eq_command {band : BitVec 3} {ctx : BitVec 2} {level : BitVec 7} {val : BitVec 16} :
    decodeFields nb (opc ++ band ++ ctx ++ level ++ val) .ldcostt = .command i ↔
      ∃ b : Band, (band = BitVec.ofNat 3 b.val ∧ b.val < nb) ∧ ∃ c : Ctx, ctx = BitVec.ofNat 2 c.val ∧
        ∃ l : Level, level = BitVec.ofNat 7 l.val ∧ .ldcostt b c l val = i := by
  simp [decodeFields_ldcostt, Option.getD_eq_iff, Option.bind_eq_some_iff, ctxOfBits_eq_some, bandOfBits_eq_some,
    levelOfBits_eq_some]

end Fields

/-! ### Encoder and decoder are inverse -/

theorem decode_of_match (nb : Nat) {w : Word} {op : Opcode} (h : w &&& opcodeMask op = opcodeMatch op) :
    decode nb w = decodeFields nb w op := by
  simp only [decode, opcodeOfBits_of_match h, h, if_true]

/-- The fields of a well-formed command's word are its operands. -/
theorem decodeFields_encode {nb : Nat} {i : Instr} (h : i.wf nb = true) :
    decodeFields nb (encode i) (opcodeOf i) = .command i := by
  cases i with
  | nop | init | clrcoef | detlast => rfl
  | ldcoef idx val => exact (decodeFields_ldcoef nb _ _ _ val).trans (by simp)
  | setfirst first => exact decodeFields_setfirst nb _ _ first
  | cost ctx0 => exact decodeFields_cost_eq_command.mpr ⟨ctx0, rfl, rfl⟩
  | rdreg reg => exact decodeFields_rdreg_eq_command.mpr ⟨reg, rfl, rfl⟩
  | ldprob band ctx val =>
    exact decodeFields_ldprob_eq_command.mpr ⟨band, ⟨rfl, of_decide_eq_true h⟩, ctx, rfl, rfl⟩
  | ldcostt band ctx level val =>
    exact decodeFields_ldcostt_eq_command.mpr ⟨band, ⟨rfl, of_decide_eq_true h⟩, ctx, rfl, level, rfl, rfl⟩

/-- Every command's word is in the command's own row, by the model's `EncodeRow` lemmas (30_encoding.md R64). -/
theorem encode_matches (i : Instr) : encode i &&& opcodeMask (opcodeOf i) = opcodeMatch (opcodeOf i) :=
  match i with
  | .nop => Laws.EncodeRow.nop
  | .init => Laws.EncodeRow.init
  | .clrcoef => Laws.EncodeRow.clrcoef
  | .ldcoef idx val => Laws.EncodeRow.ldcoef idx val
  | .setfirst first => Laws.EncodeRow.setfirst first
  | .detlast => Laws.EncodeRow.detlast
  | .cost ctx0 => Laws.EncodeRow.cost ctx0
  | .rdreg reg => Laws.EncodeRow.rdreg reg
  | .ldprob band ctx val => Laws.EncodeRow.ldprob band ctx val
  | .ldcostt band ctx level val => Laws.EncodeRow.ldcostt band ctx level val

/-- Settles O1: the word is in its command's row, whose fields read the operands back. -/
theorem decodeOfEncodeIsTheCommand : Obligations.DecodeOfEncodeIsTheCommand := fun nb i h =>
  (decode_of_match nb (encode_matches i)).trans (decodeFields_encode h)

/-- What the fields of a row's word give, if they give a command, is a well-formed command with that word. -/
theorem encode_of_decodeFields {nb : Nat} {w : Word} {op : Opcode} {i : Instr}
    (hrow : w &&& opcodeMask op = opcodeMatch op) (h : decodeFields nb w op = .command i) :
    encode i = w ∧ i.wf nb = true := by
  cases op with
  | nop | init | clrcoef | detlast =>
    cases h
    exact ⟨((matches_formatZ rfl w).mp hrow).symm, rfl⟩
  | ldcoef =>
    obtain ⟨x, val, rfl⟩ := exists_eq_append (m := 16) (n := 16) w
    obtain ⟨x, idx, rfl⟩ := exists_eq_append (m := 12) (n := 4) x
    obtain ⟨opc, m, rfl⟩ := exists_eq_append (m := 4) (n := 8) x
    obtain ⟨rfl, rfl⟩ := (matches_ldcoef opc m idx val).mp hrow
    cases (decodeFields_ldcoef nb _ _ idx val).symm.trans h
    exact ⟨by simp [encode], rfl⟩
  | setfirst =>
    obtain ⟨x, first, rfl⟩ := exists_eq_append (m := 28) (n := 4) w
    obtain ⟨opc, m, rfl⟩ := exists_eq_append (m := 4) (n := 24) x
    obtain ⟨rfl, rfl⟩ := (matches_setfirst opc m first).mp hrow
    cases (decodeFields_setfirst nb _ _ first).symm.trans h
    exact ⟨rfl, rfl⟩
  | cost =>
    obtain ⟨x, ctx0, rfl⟩ := exists_eq_append (m := 30) (n := 2) w
    obtain ⟨opc, m, rfl⟩ := exists_eq_append (m := 4) (n := 26) x
    obtain ⟨rfl, rfl⟩ := (matches_cost opc m ctx0).mp hrow
    obtain ⟨c, rfl, rfl⟩ := decodeFields_cost_eq_command.mp h
    exact ⟨rfl, rfl⟩
  | rdreg =>
    obtain ⟨x, reg, rfl⟩ := exists_eq_append (m := 26) (n := 6) w
    obtain ⟨opc, m, rfl⟩ := exists_eq_append (m := 4) (n := 22) x
    obtain ⟨rfl, rfl⟩ := (matches_rdreg opc m reg).mp hrow
    obtain ⟨r, rfl, rfl⟩ := decodeFields_rdreg_eq_command.mp h
    exact ⟨rfl, rfl⟩
  | ldprob =>
    obtain ⟨x, val, rfl⟩ := exists_eq_append (m := 24) (n := 8) w
    obtain ⟨x, m, rfl⟩ := exists_eq_append (m := 9) (n := 15) x
    obtain ⟨x, ctx, rfl⟩ := exists_eq_append (m := 7) (n := 2) x
    obtain ⟨opc, band, rfl⟩ := exists_eq_append (m := 4) (n := 3) x
    obtain ⟨rfl, rfl⟩ := (matches_ldprob opc band ctx m val).mp hrow
    obtain ⟨b, ⟨rfl, hb⟩, c, rfl, rfl⟩ := decodeFields_ldprob_eq_command.mp h
    exact ⟨rfl, decide_eq_true hb⟩
  | ldcostt =>
    obtain ⟨x, val, rfl⟩ := exists_eq_append (m := 16) (n := 16) w
    obtain ⟨x, level, rfl⟩ := exists_eq_append (m := 9) (n := 7) x
    obtain ⟨x, ctx, rfl⟩ := exists_eq_append (m := 7) (n := 2) x
    obtain ⟨opc, band, rfl⟩ := exists_eq_append (m := 4) (n := 3) x
    obtain rfl := (matches_ldcostt opc band ctx level val).mp hrow
    obtain ⟨b, ⟨rfl, hb⟩, c, rfl, l, rfl, rfl⟩ := decodeFields_ldcostt_eq_command.mp h
    exact ⟨rfl, decide_eq_true hb⟩

/-- Settles O2: the word is in the row of the command's opcode, and the row's bits and the fields are all of it. -/
theorem commandWordIsUnique : Obligations.CommandWordIsUnique := fun _ _ _ h =>
  let ⟨_, hrow, hfields⟩ := decode_command h
  encode_of_decodeFields hrow hfields

/-! ### What the words of each format decode to -/

section Formats

variable (nb : Nat)

theorem decode_reserved {opc : BitVec 4} (rest : BitVec 28) (h : 10 ≤ opc.toNat) :
    decode nb (opc ++ rest) = .illegalCmd := by
  simp only [decode, BitVec.extractLsb'_append_eq_left, (opcodeOfBits_eq_none opc).mpr h]

theorem decode_formatZ {opc : BitVec 4} {op : Opcode} (hop : opcodeOfBits opc = some op)
    (hmask : opcodeMask op = .allOnes 32) (hmatch : opcodeMatch op = opc ++ 0#28) (m : BitVec 28) :
    decode nb (opc ++ m) = if m = 0 then decodeFields nb (opc ++ m) op else .illegalCmd := by
  refine decode_of_opcode nb (by rw [BitVec.extractLsb'_append_eq_left, hop]) ?_
  rw [matches_formatZ hmask, hmatch]
  exact BitVec.append_right_inj opc

theorem decode_ldcoef (m : BitVec 8) (idx : BitVec 4) (val : BitVec 16) :
    decode nb (0x3#4 ++ m ++ idx ++ val) = if m = 0 then .command (.ldcoef idx.toFin val) else .illegalCmd := by
  have hop : opcodeOfBits ((0x3#4 ++ m ++ idx ++ val).extractLsb' 28 4) = some .ldcoef := by
    simp [BitVec.extractLsb'_append_eq_of_le, opcodeOfBits, -Nat.reduceAdd]
  rw [decode_of_opcode nb hop (p := m = 0) (by simp [matches_ldcoef]), decodeFields_ldcoef]

theorem decode_setfirst (m : BitVec 24) (first : BitVec 4) :
    decode nb (0x4#4 ++ m ++ first) = if m = 0 then .command (.setfirst first) else .illegalCmd := by
  have hop : opcodeOfBits ((0x4#4 ++ m ++ first).extractLsb' 28 4) = some .setfirst := by
    simp [BitVec.extractLsb'_append_eq_of_le, opcodeOfBits, -Nat.reduceAdd]
  rw [decode_of_opcode nb hop (p := m = 0) (by simp [matches_setfirst]), decodeFields_setfirst]

theorem decode_cost (m : BitVec 26) (ctx0 : BitVec 2) :
    decode nb (0x6#4 ++ m ++ ctx0) =
      if m = 0 then ((ctxOfBits ctx0).map fun c => .command (.cost c)).getD .illegalOperand else .illegalCmd := by
  have hop : opcodeOfBits ((0x6#4 ++ m ++ ctx0).extractLsb' 28 4) = some .cost := by
    simp [BitVec.extractLsb'_append_eq_of_le, opcodeOfBits, -Nat.reduceAdd]
  rw [decode_of_opcode nb hop (p := m = 0) (by simp [matches_cost]), decodeFields_cost]

theorem decode_rdreg (m : BitVec 22) (reg : BitVec 6) :
    decode nb (0x7#4 ++ m ++ reg) =
      if m = 0 then ((regOfBits reg).map fun r => .command (.rdreg r)).getD .illegalCmd else .illegalCmd := by
  have hop : opcodeOfBits ((0x7#4 ++ m ++ reg).extractLsb' 28 4) = some .rdreg := by
    simp [BitVec.extractLsb'_append_eq_of_le, opcodeOfBits, -Nat.reduceAdd]
  rw [decode_of_opcode nb hop (p := m = 0) (by simp [matches_rdreg]), decodeFields_rdreg]

theorem decode_ldprob (band : BitVec 3) (ctx : BitVec 2) (m : BitVec 15) (val : BitVec 8) :
    decode nb (0x8#4 ++ band ++ ctx ++ m ++ val) =
      if m = 0 then ((bandOfBits nb band).bind fun b => (ctxOfBits ctx).map fun c =>
        .command (.ldprob b c val)).getD .illegalOperand
      else .illegalCmd := by
  have hop : opcodeOfBits ((0x8#4 ++ band ++ ctx ++ m ++ val).extractLsb' 28 4) = some .ldprob := by
    simp [BitVec.extractLsb'_append_eq_of_le, opcodeOfBits, -Nat.reduceAdd]
  rw [decode_of_opcode nb hop (p := m = 0) (by simp [matches_ldprob]), decodeFields_ldprob]

theorem decode_ldcostt (band : BitVec 3) (ctx : BitVec 2) (level : BitVec 7) (val : BitVec 16) :
    decode nb (0x9#4 ++ band ++ ctx ++ level ++ val) =
      ((bandOfBits nb band).bind fun b => (ctxOfBits ctx).bind fun c => (levelOfBits level).map fun l =>
        .command (.ldcostt b c l val)).getD .illegalOperand :=
  (decode_of_match nb ((matches_ldcostt _ band ctx level val).mpr rfl)).trans
    (decodeFields_ldcostt nb _ band ctx level val)

end Formats

/-! ### Words that are no command fault -/

section Illegal

variable {s : State} {u : UnitState} (hu : s.unit = some u) (hf : u.faulted = false) {w : Word}
include hu hf

theorem runWord_illegalCmd (h : decode s.cfg.numBands w = .illegalCmd) : runWord w s = .next (latched s u 1 0 w) := by
  simp only [runWord, h]
  exact command_running hu hf _

theorem runWord_illegalOperand (h : decode s.cfg.numBands w = .illegalOperand) :
    runWord w s = .next (latched s u 2 0 w) := by
  simp only [runWord, h]
  exact command_running hu hf _

end Illegal

/-- Settles O4: no row has a reserved opcode, so such a word decodes to `ILLEGAL_CMD`. -/
theorem reservedOpcodesRaise : Obligations.ReservedOpcodesRaise := fun _ _ _ rest hu hf h =>
  runWord_illegalCmd hu hf (decode_reserved _ rest h)

/-- Settles O5: in each format with must-be-zero bits, a word is its row's only if they are 0. -/
theorem mustBeZeroBitsRaise : Obligations.MustBeZeroBitsRaise := by
  intro s u hu hf
  refine ⟨fun opc m hopc hm => ?_, fun m idx val hm => ?_, fun m first hm => ?_, fun m ctx0 hm => ?_,
    fun m reg hm => ?_, fun band ctx m val hm => ?_⟩
  · apply runWord_illegalCmd hu hf
    rcases hopc with rfl | rfl | rfl | rfl
    · exact (decode_formatZ _ (op := .nop) rfl rfl rfl m).trans (if_neg hm)
    · exact (decode_formatZ _ (op := .init) rfl rfl rfl m).trans (if_neg hm)
    · exact (decode_formatZ _ (op := .clrcoef) rfl rfl rfl m).trans (if_neg hm)
    · exact (decode_formatZ _ (op := .detlast) rfl rfl rfl m).trans (if_neg hm)
  · exact runWord_illegalCmd hu hf ((decode_ldcoef _ m idx val).trans (if_neg hm))
  · exact runWord_illegalCmd hu hf ((decode_setfirst _ m first).trans (if_neg hm))
  · exact runWord_illegalCmd hu hf ((decode_cost _ m ctx0).trans (if_neg hm))
  · exact runWord_illegalCmd hu hf ((decode_rdreg _ m reg).trans (if_neg hm))
  · exact runWord_illegalCmd hu hf ((decode_ldprob _ band ctx m val).trans (if_neg hm))

/-- Settles O6: a reserved number names no register. -/
theorem reservedRegistersRaise : Obligations.ReservedRegistersRaise := by
  intro s u reg hu hf h
  apply runWord_illegalCmd hu hf
  rw [decode_rdreg]
  simp [regOfBits_eq_none.mpr h]

/-- Settles O7: of a reserved field no operand is made, whatever the other fields hold. -/
theorem reservedOperandsRaise : Obligations.ReservedOperandsRaise := by
  intro s u hu hf
  refine ⟨runWord_illegalOperand hu hf rfl, fun band ctx val h => ?_, fun band ctx level val h => ?_⟩
  all_goals apply runWord_illegalOperand hu hf
  · rw [decode_ldprob]
    obtain h | rfl := h
    · simp [bandOfBits_eq_none.mpr h]
    · simp [ctxOfBits_three]
  · rw [decode_ldcostt]
    obtain h | rfl | h := h
    · simp [bandOfBits_eq_none.mpr h]
    · simp [ctxOfBits_three]
    · simp [levelOfBits_eq_none.mpr h]

/-! ### Words as numbers -/

theorem toInt_emod_two_pow {n : Nat} (x : BitVec n) : x.toInt % 2 ^ n = x.toNat := by
  have hlt : (x.toNat : Int) < 2 ^ n := by exact_mod_cast x.isLt
  calc x.toInt % 2 ^ n = (x.toNat : Int) % 2 ^ n := by
        rw [BitVec.toInt_eq_toNat_bmod]
        exact_mod_cast Int.bmod_emod
    _ = x.toNat := Int.emod_eq_of_lt (Int.natCast_nonneg _) hlt

/-- Settles O8: a word made of fields is the sum of its fields at their weights. -/
theorem commandWordsFollowTheFormulas : Obligations.CommandWordsFollowTheFormulas := by
  refine ⟨rfl, rfl, rfl, rfl, fun idx val => ?_, fun first => ?_, fun ctx0 => ?_, fun reg => ?_,
    fun band ctx val => ?_, fun band ctx level val => ?_⟩
  · rw [toInt_emod_two_pow, encode, toNat_append_eq_add, toNat_append_eq_add]
    simp
    omega
  · exact toNat_append_eq_add (0x4#4 ++ 0#24) first
  · rw [encode, toNat_append_eq_add, BitVec.toNat_ofNat]
    simp
    omega
  · exact toNat_append_eq_add (0x7#4 ++ 0#22) (regNumber reg)
  · rw [encode, toNat_append_eq_add, toNat_append_eq_add, toNat_append_eq_add, toNat_append_eq_add]
    simp
    omega
  · rw [encode, toNat_append_eq_add, toNat_append_eq_add, toNat_append_eq_add, toNat_append_eq_add]
    simp
    omega

end Sys2Proof.Machine
end

section
/-! PROOFS. What the outside of the block does to a unit, and the placing of one word (30_encoding.md R60, R62;
10_state.md R22; 60_exceptions.md R155; 70_reset_and_hazards.md R180). -/

namespace Sys2Proof.Machine

theorem modify_eq_set_of_getElem? {l : List UnitState} {k : Nat} {u : UnitState} (h : l[k]? = some u)
    (f : UnitState → UnitState) : l.modify k f = l.set k (f u) := by
  simp [List.modify_eq_set_getElem?, h]

theorem units_reset {s : State} {k : Nat} {u : UnitState} (h : s.units[k]? = some u) (busy : List Nat) :
    (s.abandon busy).applyReset.units[k]? =
      some { UnitState.reset with port := if k ∈ busy then u.port.tail else u.port } := by
  by_cases hk : k ∈ busy <;> simp [State.abandon, h, hk, UnitState.applyReset]

/-- Settles O50: each event is one write to the unit's entry, or to `CAP`. -/
theorem hostEventsReachTheirUnit : Obligations.HostEventsReachTheirUnit := by
  intro s k u es hu
  refine ⟨fun w he => ?_, fun v vs he hr => ?_, fun level he => step_of_event he, fun busy he => ?_⟩
  · rw [step_of_event he, handleEvent, modify_eq_set_of_getElem? hu]
  · rw [step_of_event he, handleEvent, modify_eq_set_of_getElem? hu, hr, List.tail_cons]
  · exact ⟨_, _, step_of_event he, units_reset (s := { s with events := es }) hu busy, rfl⟩

/-- Taking the placed word off the port gives back the state it was placed in. -/
theorem accept_placeWord {s : State} {u : UnitState} (h : s.unit = some u) (w : Word) :
    ({ s.placeWord w with events := s.events } : State).accept s.cur { u with port := w :: u.port } u.port = s := by
  have hunits : (s.placeWord w).units = s.units.set s.cur { u with port := w :: u.port } :=
    modify_eq_set_of_getElem? h _
  have hself : s.units.set s.cur u = s.units := congrArg State.units (setUnit_self h)
  simp only [State.accept, hunits, List.set_set, hself]
  rfl

theorem step_placeWord {s : State} {u : UnitState} {w : Word} {i : Instr} (h : s.unit = some u)
    (hi : decode s.cfg.numBands w = .command i) : step (s.placeWord w) = exec i s := by
  have hu : (s.placeWord w).units[s.cur]? = some { u with port := w :: u.port } := by
    have hcur : s.units[s.cur]? = some u := h
    simp [State.placeWord, hcur]
  rw [step_of_grant rfl hu rfl hi, accept_placeWord h]

/-- Settles O43: the placed word is granted and taken off the port again, and it decodes to its command (O1). -/
theorem placedWordRunsNext : Obligations.PlacedWordRunsNext := by
  intro s u i hu hi
  have hword : s.withFetchWord 32 (encode i).toNat = s.placeWord (encode i) := by
    rw [State.withFetchWord, Nat.mod_eq_of_lt (encode i).isLt, BitVec.ofNat_toNat, BitVec.setWidth_eq]
  rw [hword, step_placeWord hu (decodeOfEncodeIsTheCommand _ i hi)]

end Sys2Proof.Machine
end

section
/-! PROOFS. Loading a block and scanning it (30_encoding.md R73, 40_block_load.md R83, 41_scan_detector.md R90). -/

namespace Sys2Proof.Machine

theorem execAll_cons {i : Instr} {s t : State} (h : exec i s = .next t) (is : List Instr) :
    execAll (i :: is) s = execAll is t := by
  simp only [execAll, h]

theorem execAll_append {is : List Instr} {s t : State} (h : execAll is s = .next t) (js : List Instr) :
    execAll (is ++ js) s = execAll js t := by
  induction is generalizing s with
  | nil => cases h; rfl
  | cons i is ih =>
    cases hi : exec i s with
    | next m =>
      rw [execAll_cons hi] at h
      rw [List.cons_append, execAll_cons hi, ih h]
    | fault r | refused r => simp [execAll, hi] at h

/-- The unit with the coefficients `v`, all with a value, and `LAST` without one (40_block_load.md R80, R81). -/
def UnitState.withBlock (u : UnitState) (v : Vector (BitVec 16) 16) : UnitState :=
  { u with coef := v, coefV := BitVec.allOnes 16, lastV := false }

theorem clearCoefs_eq_withBlock (u : UnitState) : u.clearCoefs = u.withBlock (Vector.replicate 16 0) := rfl

theorem setCoef_withBlock (u : UnitState) (b : Vector (BitVec 16) 16) (i : Pos) (x : BitVec 16) :
    (u.withBlock b).setCoef i x = u.withBlock (b.set i x) := by
  simp [UnitState.withBlock, UnitState.setCoef, setCoefFlag, -BitVec.reduceAllOnes]

theorem coefFlag_withBlock (u : UnitState) (v : Vector (BitVec 16) 16) (i : Pos) :
    coefFlag (u.withBlock v).coefV i = true :=
  (coefAllV_iff _).mp (by simp [UnitState.withBlock, coefAllV]) i

/-- The coefficients after `LDCOEF i, v[i]` for every `i` of a list, in order (40_block_load.md R81). -/
def storeCoefs (v : Vector (BitVec 16) 16) : List Pos → Vector (BitVec 16) 16 → Vector (BitVec 16) 16
  | [], b => b
  | i :: is, b => storeCoefs v is (b.set i v[i])

theorem getElem_storeCoefs (v : Vector (BitVec 16) 16) (is : List Pos) (b : Vector (BitVec 16) 16) (j : Pos) :
    (storeCoefs v is b)[j] = if j ∈ is then v[j] else b[j] := by
  induction is generalizing b with
  | nil => simp [storeCoefs]
  | cons i is ih =>
    rw [storeCoefs, ih]
    by_cases hj : j ∈ is
    · simp [hj]
    · by_cases hi : i = j
      · subst hi; simp
      · have hne : i.val ≠ j.val := fun h => hi (Fin.ext h)
        simp [hj, Ne.symm hi, hne]

/-- Storing the nonzero coefficients into a cleared block gives the block. -/
theorem storeCoefs_nonzero (v : Vector (BitVec 16) 16) :
    storeCoefs v (allPositions.filter fun i => decide (v[i] ≠ 0)) (Vector.replicate 16 0) = v := by
  refine Vector.ext fun j hj => (getElem_storeCoefs v _ _ ⟨j, hj⟩).trans ?_
  by_cases hz : v[j] = 0#16 <;> simp [mem_allPositions, hz]

theorem execAll_ldcoefs {s : State} {u : UnitState} (hu : s.unit = some u) (hf : u.faulted = false)
    (v : Vector (BitVec 16) 16) (is : List Pos) (b : Vector (BitVec 16) 16) :
    execAll (is.map fun i => .ldcoef i v[i]) (s.setUnit (u.withBlock b)) =
      .next (s.setUnit (u.withBlock (storeCoefs v is b))) := by
  induction is generalizing b with
  | nil => rfl
  | cons i is ih =>
    have hi : exec (.ldcoef i v[i]) (s.setUnit (u.withBlock b)) = .next (s.setUnit (u.withBlock (b.set i v[i]))) :=
      (command_running (unit_setUnit hu (u.withBlock b)) hf _).trans (by rw [setUnit_setUnit, setCoef_withBlock])
    rw [List.map_cons, execAll_cons hi, ih, storeCoefs]

/-- `LDBLOCK` loads exactly its operands, whatever the block held before (40_block_load.md R83). -/
theorem execAll_ldblock {s : State} {u : UnitState} (hu : s.unit = some u) (hf : u.faulted = false)
    (v : Vector (BitVec 16) 16) : execAll (ldblock v) s = .next (s.setUnit (u.withBlock v)) := by
  have hclear : exec .clrcoef s = .next (s.setUnit (u.withBlock (Vector.replicate 16 0))) := by
    rw [← clearCoefs_eq_withBlock]
    exact command_running hu hf _
  rw [ldblock, execAll_cons hclear, execAll_ldcoefs hu hf, storeCoefs_nonzero]

/-- Settles O16: `LDBLOCK` loads the values, `SETFIRST` keeps them, and `DETLAST` scans a complete block. -/
theorem loadedBlockIsScanned : Obligations.LoadedBlockIsScanned := by
  intro s u v first hu hf hd
  have hload := execAll_ldblock hu hf v
  have hloaded := unit_setUnit hu (u.withBlock v)
  have hfirst : exec (.setfirst first) (s.setUnit (u.withBlock v)) =
      .next (s.setUnit ((u.withBlock v).setFirst first)) :=
    (command_running hloaded hf _).trans (by rw [setUnit_setUnit])
  have hscan := execDetlast_complete (unit_setUnit hu ((u.withBlock v).setFirst first)) hf hd (coefFlag_withBlock u v)
  rw [setUnit_setUnit] at hscan
  refine ⟨_, (((u.withBlock v).setFirst first).setLast (detectLast v)).respond (BitVec.ofInt 32 (detectLast v)),
    ?_, unit_setUnit hu _, rfl, rfl, toInt_ofInt_detectLast v, ⟨hf, rfl, rfl⟩, rfl⟩
  rw [execAll_append hload, execAll_cons hfirst, execAll_cons (i := .detlast) hscan]
  rfl

end Sys2Proof.Machine
end

section
/-! PROOFS. The commands of the Coefficient Block: their words, what they write, and what they leave
(40_block_load.md R80, R81, R82). -/

namespace Sys2Proof.Machine

/-! ### One command on a running unit -/

section Running

variable {s : State} {u : UnitState} (hu : s.unit = some u) (hf : u.faulted = false)
include hu hf

theorem exec_clrcoef_running : exec .clrcoef s = .next (s.setUnit u.clearCoefs) := command_running hu hf _

theorem exec_ldcoef_running (idx : Pos) (val : BitVec 16) :
    exec (.ldcoef idx val) s = .next (s.setUnit (u.setCoef idx val)) := command_running hu hf _

theorem exec_setfirst_running (first : BitVec 4) :
    exec (.setfirst first) s = .next (s.setUnit (u.setFirst first)) := command_running hu hf _

/-- A second `CLRCOEF` writes what the first one wrote (40_block_load.md R80). -/
theorem exec_clrcoef_again : exec .clrcoef (s.setUnit u.clearCoefs) = .next (s.setUnit u.clearCoefs) :=
  calc exec .clrcoef (s.setUnit u.clearCoefs)
    _ = .next ((s.setUnit u.clearCoefs).setUnit u.clearCoefs.clearCoefs) :=
        exec_clrcoef_running (unit_setUnit hu u.clearCoefs) hf
    _ = .next (s.setUnit u.clearCoefs) := by rw [setUnit_setUnit]; rfl

end Running

/-! ### The coefficients after a load -/

theorem getElem_clearCoefs (u : UnitState) (i : Pos) : u.clearCoefs.coef[i] = 0 := by simp

theorem coefFlag_clearCoefs (u : UnitState) (i : Pos) : coefFlag u.clearCoefs.coefV i = true :=
  coefFlag_withBlock u _ i

theorem getElem_setCoef_same (u : UnitState) (i : Pos) (v : BitVec 16) : (u.setCoef i v).coef[i] = v := by simp

theorem getElem_setCoef_other (u : UnitState) (v : BitVec 16) {i j : Pos} (h : j ≠ i) :
    (u.setCoef i v).coef[j] = u.coef[j] :=
  Vector.getElem_set_ne i.isLt j.isLt fun hij => h (Fin.ext hij.symm)

/-- Settles O12: the word is of format Z, and clearing a cleared block writes the same again. -/
theorem clrcoefZeroesTheBlock : Obligations.ClrcoefZeroesTheBlock :=
  ⟨fun nb m => decode_formatZ nb (op := .clrcoef) rfl rfl rfl m, fun _ u hu hf =>
    ⟨_, u.clearCoefs, exec_clrcoef_running hu hf, unit_setUnit hu _,
      fun i => ⟨getElem_clearCoefs u i, coefFlag_clearCoefs u i⟩, rfl, rfl, exec_clrcoef_again hu hf⟩⟩

/-- Settles O13: a stored coefficient and its flag read back, and those of every other position are the old ones. -/
theorem ldcoefWritesOneCoefficient : Obligations.LdcoefWritesOneCoefficient := by
  refine ⟨fun nb m idx val => ?_, fun s u idx val hu hf => ?_⟩
  · have hidx : (BitVec.ofNat 4 idx.val).toFin = idx := Fin.ofNat_val_eq_self idx
    rw [decode_ldcoef, hidx]
  · refine ⟨_, u.setCoef idx val, exec_ldcoef_running hu hf idx val, unit_setUnit hu _, ?_, ?_, rfl,
      fun j hj => ⟨getElem_setCoef_other u val hj, ?_⟩, rfl⟩
    · rw [getElem_setCoef_same]
    · simp [coefFlag_setCoefFlag]
    · simp [coefFlag_setCoefFlag, hj.symm]

/-- Settles O14: the word is of format F, and the command is one write of the unit. -/
theorem setfirstWritesFirst : Obligations.SetfirstWritesFirst :=
  ⟨decode_setfirst, fun _ _ first hu hf => exec_setfirst_running hu hf first⟩

/-! ### What the block commands leave unchanged -/

theorem sameShared_setUnit (s : State) (v : UnitState) : s.sameShared (s.setUnit v) :=
  ⟨rfl, rfl, rfl, rfl, rfl, rfl, rfl, rfl⟩

theorem sameProb_setUnit (s : State) (v : UnitState) : s.sameProb (s.setUnit v) := fun _ => rfl

theorem sameCostt_setUnit (s : State) (v : UnitState) : s.sameCostt (s.setUnit v) := fun _ => rfl

theorem sameOthers_setUnit (s : State) (v : UnitState) : s.sameOthers (s.setUnit v) :=
  ⟨length_setUnit s v, fun _ => units_setUnit_other s v⟩

/-- The unit `NOP`, `CLRCOEF`, `LDCOEF` or `SETFIRST` leaves: the one it found, or the one with the command's write. -/
inductive BlockWrite (u : UnitState) : Instr → UnitState → Prop where
  | nothing (i : Instr) : BlockWrite u i u
  | clear : BlockWrite u .clrcoef u.clearCoefs
  | coef (idx : Pos) (val : BitVec 16) : BlockWrite u (.ldcoef idx val) (u.setCoef idx val)
  | first (first : BitVec 4) : BlockWrite u (.setfirst first) (u.setFirst first)

/-- A command that only writes its unit: a faulted unit drops it (60_exceptions.md R155). -/
theorem BlockWrite.of_command {i : Instr} {s t : State} {u : UnitState} {f : UnitState → UnitState}
    (hw : BlockWrite u i (f u)) (hu : s.unit = some u) (h : command s (fun x => s.setUnit (f x)) = .next t) :
    ∃ v, BlockWrite u i v ∧ t = s.setUnit v := by
  obtain ⟨x, hx, ⟨-, rfl⟩ | ⟨-, rfl⟩⟩ := command_next h
  · exact ⟨u, .nothing i, (setUnit_self hu).symm⟩
  · obtain rfl : x = u := Option.some.inj (hx.symm.trans hu)
    exact ⟨f x, hw, rfl⟩

theorem exec_blockWrite {i : Instr} {s t : State} {u : UnitState}
    (hi : i = .nop ∨ i = .clrcoef ∨ (∃ idx val, i = .ldcoef idx val) ∨ ∃ first, i = .setfirst first)
    (h : exec i s = .next t) (hu : s.unit = some u) : ∃ v, BlockWrite u i v ∧ t = s.setUnit v := by
  obtain rfl | rfl | ⟨idx, val, rfl⟩ | ⟨first, rfl⟩ := hi
  · obtain ⟨-, -, ⟨-, rfl⟩ | ⟨-, rfl⟩⟩ := command_next h <;> exact ⟨u, .nothing _, (setUnit_self hu).symm⟩
  · exact BlockWrite.clear.of_command hu h
  · exact (BlockWrite.coef idx val).of_command (f := fun x => x.setCoef idx val) hu h
  · exact (BlockWrite.first first).of_command (f := fun x => x.setFirst first) hu h

theorem BlockWrite.keeps {u v : UnitState} {i : Instr} (h : BlockWrite u i v) :
    u.sameResult v ∧ u.sameFault v ∧ u.sameChannels v ∧ v.last = u.last := by
  cases h <;> exact ⟨⟨rfl, rfl⟩, ⟨rfl, rfl, rfl, rfl⟩, ⟨rfl, rfl⟩, rfl⟩

theorem BlockWrite.sameFirst {u v : UnitState} {i : Instr} (h : BlockWrite u i v)
    (hi : i = .nop ∨ i = .clrcoef ∨ ∃ idx val, i = .ldcoef idx val) : u.sameFirst v := by
  cases h with
  | nothing | clear | coef => exact ⟨rfl, rfl⟩
  | first => simp at hi

theorem BlockWrite.sameCoefs_sameLast {u v : UnitState} {i : Instr} (h : BlockWrite u i v)
    (hi : i = .nop ∨ ∃ first, i = .setfirst first) : u.sameCoefs v ∧ u.sameLast v := by
  cases h with
  | nothing | first => exact ⟨⟨rfl, rfl⟩, rfl, rfl⟩
  | clear | coef => simp at hi

/-- Settles O15: each of the four replaces its own unit, by one that keeps what `BlockWrite` keeps. -/
theorem blockCommandsFrame : Obligations.BlockCommandsFrame := by
  intro i s t u u' hi h hu hu'
  obtain ⟨v, hv, rfl⟩ := exec_blockWrite hi h hu
  obtain rfl : v = u' := Option.some.inj ((unit_setUnit hu v).symm.trans hu')
  obtain ⟨hresult, hfault, hchannels, hlast⟩ := hv.keeps
  exact ⟨sameShared_setUnit s v, sameProb_setUnit s v, sameCostt_setUnit s v, sameOthers_setUnit s v,
    hresult, hfault, hchannels, hlast, hv.sameFirst, hv.sameCoefs_sameLast⟩

end Sys2Proof.Machine
end

section
/-! PROOFS. The Scan Detector: the position its function names, and `DETLAST` (41_scan_detector.md R90 to R95). -/

namespace Sys2Proof.Machine

/-! ### The first hit of a scan over all positions -/

/-- In a list of all positions ordered by `r`, the first hit is the hit with no hit before it. -/
theorem find?_eq_some_iff_of_pairwise {r : Pos → Pos → Prop} [Std.Asymm r] {l : List Pos} (hl : l.Pairwise r)
    (hall : ∀ j, j ∈ l) {p : Pos → Bool} {i : Pos} :
    l.find? p = some i ↔ p i = true ∧ ∀ j, r j i → p j = false := by
  constructor
  · intro h
    obtain ⟨hi, before, after, rfl, hbefore⟩ := List.find?_eq_some_iff_append.mp h
    refine ⟨hi, fun j hj => ?_⟩
    have hafter : ∀ k ∈ i :: after, ¬ r k i := by
      obtain ⟨-, hl, -⟩ := List.pairwise_append.mp hl
      refine List.forall_mem_cons.mpr ⟨fun h => Std.Asymm.asymm _ _ h h, fun k hk => ?_⟩
      exact Std.Asymm.asymm _ _ (List.rel_of_pairwise_cons hl hk)
    obtain hmem | hmem := List.mem_append.mp (hall j)
    · simpa using hbefore j hmem
    · exact absurd hj (hafter j hmem)
  · rintro ⟨hi, hfirst⟩
    obtain ⟨before, after, rfl⟩ := List.append_of_mem (hall i)
    obtain ⟨-, -, hcross⟩ := List.pairwise_append.mp hl
    refine List.find?_eq_some_iff_append.mpr ⟨hi, before, after, rfl, fun j hj => ?_⟩
    simp [hfirst j (hcross j hj i List.mem_cons_self)]

theorem find?_allPositions_eq_some {p : Pos → Bool} {i : Pos} :
    allPositions.find? p = some i ↔ p i = true ∧ ∀ j, j < i → p j = false :=
  find?_eq_some_iff_of_pairwise (by decide) mem_allPositions

theorem mem_descendingPositions (i : Pos) : i ∈ descendingPositions := by
  rw [descendingPositions_eq_reverse, List.mem_reverse]
  exact mem_allPositions i

theorem find?_descendingPositions_eq_some {p : Pos → Bool} {i : Pos} :
    descendingPositions.find? p = some i ↔ p i = true ∧ ∀ j, i < j → p j = false :=
  find?_eq_some_iff_of_pairwise (r := (· > ·)) (by decide) mem_descendingPositions

/-! ### What `detectLast` returns -/

theorem indexOf_eq_neg_one {o : Option Pos} : indexOf o = -1 ↔ o = none := by
  cases o with
  | none => simp
  | some i => simp

theorem indexOf_eq_val {o : Option Pos} {i : Pos} : indexOf o = i.val ↔ o = some i := by
  cases o with
  | none => simp
  | some j => simp [Fin.ext_iff]

theorem detectLast_eq_neg_one {coef : Vector (BitVec 16) 16} :
    detectLast coef = -1 ↔ ∀ i : Pos, coef[i] = 0 := by
  rw [detectLast_eq_detectLastSeq, detectLastSeq, indexOf_eq_neg_one]
  simp [mem_descendingPositions]

theorem detectLast_eq_val {coef : Vector (BitVec 16) 16} {i : Pos} :
    detectLast coef = i.val ↔ coef[i] ≠ 0 ∧ ∀ j : Pos, i < j → coef[j] = 0 := by
  rw [detectLast_eq_detectLastSeq, detectLastSeq, indexOf_eq_val, find?_descendingPositions_eq_some]
  simp

theorem detectLast_cases (coef : Vector (BitVec 16) 16) :
    detectLast coef = -1 ∨ ∃ i : Pos, detectLast coef = i.val := by
  rw [detectLast_eq_detectLastSeq, detectLastSeq]
  cases descendingPositions.find? fun i => decide (coef[i] ≠ 0) with
  | none => exact .inl rfl
  | some i => exact .inr ⟨i, rfl⟩

/-- Settles O17: the scan finds no position or one, and what it finds says which coefficients are zero. -/
theorem detectLastIsTheGreatestNonzero : Obligations.DetectLastIsTheGreatestNonzero := fun coef =>
  (detectLast_cases coef).imp (fun h => ⟨h, detectLast_eq_neg_one.mp h⟩)
    fun ⟨i, h⟩ => ⟨i, h, detectLast_eq_val.mp h⟩

/-- Settles O18: the running maximum is the first hit of the reverse scan, and the mask holds the scan's tests. -/
theorem detectorsAgree : Obligations.DetectorsAgree := fun coef =>
  have hseq := (detectLast_eq_detectLastSeq coef).symm
  ⟨hseq, (detectLastPar_eq_detectLastSeq coef).trans hseq⟩

theorem getElem_set_of_lt (coef : Vector (BitVec 16) 16) (x : BitVec 16) {j k : Pos} (h : j < k) :
    (coef.set j x)[k] = coef[k] :=
  Vector.getElem_set_ne j.isLt k.isLt (Nat.ne_of_lt h)

theorem detectLast_single (k : Pos) {x : BitVec 16} (hx : x ≠ 0) :
    detectLast ((Vector.replicate 16 0).set k x) = k.val := by
  refine detectLast_eq_val.mpr ⟨by simpa using hx, fun j hj => ?_⟩
  rw [getElem_set_of_lt _ x hj]
  simp

/-- Neither the coefficient the result names nor one above it is at a position below the result. -/
theorem detectLast_set_of_lt {coef : Vector (BitVec 16) 16} {j : Pos} (x : BitVec 16)
    (h : (j.val : Int) < detectLast coef) : detectLast (coef.set j x) = detectLast coef := by
  obtain hnone | ⟨i, hi⟩ := detectLast_cases coef
  · omega
  · have hji : j < i := by rw [hi] at h; exact_mod_cast h
    obtain ⟨hne, habove⟩ := detectLast_eq_val.mp hi
    rw [hi, detectLast_eq_val, getElem_set_of_lt coef x hji]
    refine ⟨hne, fun k hk => ?_⟩
    rw [getElem_set_of_lt coef x (hji.trans hk), habove k hk]

/-- Settles O19: the result depends on its own coefficient and on those above it only (`detectLast_eq_val`). -/
theorem lowerCoefficientsDoNotMatter : Obligations.LowerCoefficientsDoNotMatter :=
  ⟨detectLast_eq_neg_one.mpr fun i => by simp, fun k _ => detectLast_single k, fun _ _ x => detectLast_set_of_lt x,
    fun coef => (detectLastPar_eq_detectLastSeq coef).symm⟩

/-! ### `DETLAST` -/

theorem lowestUnwritten_eq_some {v : BitVec 16} {i : Pos} :
    lowestUnwritten v = some i ↔ coefFlag v i = false ∧ ∀ j, j < i → coefFlag v j = true := by
  simp [lowestUnwritten, find?_allPositions_eq_some]

theorem execDetlast_unwritten {s : State} {u : UnitState} {i : Pos} (hu : s.unit = some u)
    (hf : u.faulted = false) (hd : s.initDone = true) (hi : lowestUnwritten u.coefV = some i) :
    execDetlast s = .next (s.takeFault u (encode .detlast) ⟨.unwrittenState, i⟩) := by
  have hindex : detlastIndex s u = .error ⟨.unwrittenState, i⟩ := by simp [detlastIndex, hd, hi]
  rw [detlast_running hu hf, hindex]

/-- Settles O20: the word is of format Z, and the two checks and the scan are the three branches of `detlastIndex`. -/
theorem detlastReturnsTheScan : Obligations.DetlastReturnsTheScan := by
  refine ⟨fun nb m => decode_formatZ nb (op := .detlast) rfl rfl rfl m, fun s u hu hf => ⟨?_, ?_, ?_⟩⟩
  · exact execDetlast_notInit hu hf
  · exact fun hd i hi hlow => execDetlast_unwritten hu hf hd (lowestUnwritten_eq_some.mpr ⟨hi, hlow⟩)
  · exact fun hd hc => ⟨_, execDetlast_complete hu hf hd hc, toInt_ofInt_detectLast u.coef, rfl⟩

end Sys2Proof.Machine
end

section
/-! PROOFS. What the commands that read the block leave unchanged (41_scan_detector.md R90, 42_cost_estimator.md R100,
43_strategy_system.md R133, 60_exceptions.md R160, R163). -/

namespace Sys2Proof.Machine

/-- The unit `DETLAST`, `COST` or `RDREG` leaves: the one it found, one with a fault latched, or one with the command's
answer. -/
inductive ReadWrite (u : UnitState) : Instr → UnitState → Prop where
  | nothing (i : Instr) : ReadWrite u i u
  | fault (i : Instr) (w : Word) (r : Raise) : ReadWrite u i (u.latch w r)
  | scan (r : Int) : ReadWrite u .detlast ((u.setLast r).respond (BitVec.ofInt 32 r))
  | cost (ctx0 : Ctx) (total : BitVec 32) : ReadWrite u (.cost ctx0) ((u.setResult total).respond total)
  | answer (reg : Reg) (v : Word) : ReadWrite u (.rdreg reg) (u.respond v)

/-- The state after a reading command: its unit replaced as `ReadWrite` says, and nothing else. -/
def ReadResult (s : State) (u : UnitState) (i : Instr) (t : State) : Prop :=
  ∃ v, ReadWrite u i v ∧ t = s.setUnit v

section Executing

variable {s t : State} {u : UnitState} {i : Instr}

theorem ReadResult.unchanged (hu : s.unit = some u) : ReadResult s u i s :=
  ⟨u, .nothing i, (setUnit_self hu).symm⟩

theorem ReadResult.takeFault (w : Word) (r : Raise) : ReadResult s u i (s.takeFault u w r) :=
  ⟨_, .fault i w r, rfl⟩

/-- Answering a register read responds with its value, or does what is given for a register without one. -/
theorem ReadResult.answerReg {reg : Reg} {novalue : State} (h : ReadResult s u (.rdreg reg) novalue) :
    ReadResult s u (.rdreg reg) (answerReg s u reg novalue) := by
  unfold Machine.answerReg
  split
  · exact ⟨_, .answer reg _, rfl⟩
  · exact h

/-- Whatever the prologue lets happen, dropping the command or its body, is a reading command's. -/
theorem ReadResult.of_onUnit {dropped body : UnitState → State} (hdropped : ReadResult s u i (dropped u))
    (hbody : ReadResult s u i (body u)) (hu : s.unit = some u) (h : onUnit s dropped body = .next t) :
    ReadResult s u i t := by
  obtain ⟨x, hx, ⟨-, rfl⟩ | ⟨-, rfl⟩⟩ := onUnit_next h
  all_goals obtain rfl : x = u := Option.some.inj (hx.symm.trans hu)
  · exact hdropped
  · exact hbody

theorem exec_readResult (hi : i = .detlast ∨ (∃ ctx0, i = .cost ctx0) ∨ ∃ reg, i = .rdreg reg)
    (h : exec i s = .next t) (hu : s.unit = some u) : ReadResult s u i t := by
  obtain rfl | ⟨ctx0, rfl⟩ | ⟨reg, rfl⟩ := hi
  · refine .of_onUnit (.unchanged hu) ?_ hu h
    split
    · exact .takeFault _ _
    · exact ⟨_, .scan _, rfl⟩
  · refine .of_onUnit (.unchanged hu) ?_ hu h
    split
    · exact .takeFault _ _
    · exact ⟨_, .cost ctx0 _, rfl⟩
  · refine .of_onUnit ?_ (.answerReg (.takeFault _ _)) hu h
    split
    · exact .answerReg (.unchanged hu)
    · exact .unchanged hu

end Executing

section Keeps

variable {u v : UnitState} {i : Instr} (h : ReadWrite u i v)
include h

theorem ReadWrite.keeps : u.sameCoefs v ∧ u.sameFirst v ∧ v.port = u.port := by
  cases h <;> exact ⟨⟨rfl, rfl⟩, ⟨rfl, rfl⟩, rfl⟩

theorem ReadWrite.sameResult (hi : i = .detlast ∨ ∃ reg, i = .rdreg reg) : u.sameResult v := by
  cases h with
  | nothing | fault | scan | answer => exact ⟨rfl, rfl⟩
  | cost => simp at hi

theorem ReadWrite.sameLast (hi : (∃ ctx0, i = .cost ctx0) ∨ ∃ reg, i = .rdreg reg) : u.sameLast v := by
  cases h with
  | nothing | fault | cost | answer => exact ⟨rfl, rfl⟩
  | scan => simp at hi

theorem ReadWrite.sameFault (hf : v.faulted = false) : u.sameFault v := by
  cases h with
  | nothing | scan | cost | answer => exact ⟨rfl, rfl, rfl, rfl⟩
  | fault => cases hf

end Keeps

/-- Settles O28: each of the three replaces its own unit, by one that keeps what `ReadWrite` keeps. -/
theorem readingCommandsFrame : Obligations.ReadingCommandsFrame := by
  intro i s t u u' hi h hu hu'
  obtain ⟨v, hv, rfl⟩ := exec_readResult hi h hu
  obtain rfl : v = u' := Option.some.inj ((unit_setUnit hu v).symm.trans hu')
  obtain ⟨hcoefs, hfirst, hport⟩ := hv.keeps
  exact ⟨sameShared_setUnit s v, sameProb_setUnit s v, sameCostt_setUnit s v, sameOthers_setUnit s v,
    hcoefs, hfirst, hport, hv.sameResult, hv.sameLast, hv.sameFault⟩

end Sys2Proof.Machine
end

section
/-! PROOFS. The Cost Estimator: what `COST` answers and which fault it raises, said by position instead of by the loop,
and from that its totals, its faults and its context (42_cost_estimator.md R100 to R112). -/

namespace Sys2Proof.Machine

/-! ### Magnitude, bucket and level -/

theorem mag_eq (x : BitVec 16) : (mag x : Int) = if 0 ≤ x.toInt then x.toInt else -x.toInt := by
  unfold mag
  split <;> omega

theorem mag_le (x : BitVec 16) : mag x ≤ 32768 := by
  have hlo : -32768 ≤ x.toInt := BitVec.le_toInt x
  have hhi : x.toInt < 32768 := BitVec.toInt_lt
  unfold mag
  omega

theorem bucket_cases (v : Nat) : (v = 0 → bucket v = 0) ∧ (v = 1 → bucket v = 1) ∧ (2 ≤ v → bucket v = 2) := by
  refine ⟨fun h => ?_, fun h => ?_, fun h => ?_⟩
  · subst h; rfl
  · subst h; rfl
  · exact Fin.ext (Nat.min_eq_right h)

theorem clamp_cases (v : Nat) : (v ≤ 67 → (clamp v).val = v) ∧ (67 < v → (clamp v).val = 67) :=
  ⟨fun h => Nat.min_eq_left h, fun h => Nat.min_eq_right h.le⟩

/-- Settles O21: the 16 signed bits are in -32768..32767, and the absolute value is taken in the integers. -/
theorem magnitudeDoesNotWrap : Obligations.MagnitudeDoesNotWrap :=
  ⟨fun x => ⟨mag_eq x, mag_le x⟩, by decide, bucket_cases, clamp_cases⟩

/-- Both implementations take the same from a coefficient (42_cost_estimator.md R110). -/
theorem laneBy_eq_scalarLane (sel : Bool) (coef : Vector (BitVec 16) 16) : laneBy sel coef = scalarLane coef := by
  funext n
  cases sel with
  | false => rfl
  | true => simp [laneBy, parallelLane, precompute, scalarLane]

@[simp] theorem scalarLane_mag (coef : Vector (BitVec 16) 16) (n : Pos) : (scalarLane coef n).mag = mag coef[n] := rfl

@[simp] theorem scalarLane_ctx (coef : Vector (BitVec 16) 16) (n : Pos) :
    (scalarLane coef n).ctx = bucket (mag coef[n]) := rfl

@[simp] theorem scalarLane_level (coef : Vector (BitVec 16) 16) (n : Pos) :
    (scalarLane coef n).level = clamp (mag coef[n]) := rfl

/-! ### The positions of a block -/

theorem lastPosition_eq_none {x : BitVec 5} (h : x.toInt < 0) : lastPosition x = none := by
  rw [BitVec.toInt_eq_toNat_cond] at h
  exact dif_neg (by omega)

theorem lastPosition_eq_some {x : BitVec 5} {last : Pos} (h : x.toInt = last.val) : lastPosition x = some last := by
  rw [BitVec.toInt_eq_toNat_cond] at h
  have hx : x.toNat = last.val := by omega
  simp [lastPosition, hx]

theorem toInt_cases (x : BitVec 5) : x.toInt < 0 ∨ ∃ last : Pos, x.toInt = last.val := by
  obtain h | h := lt_or_ge x.toInt 0
  · exact .inl h
  · have hlt : x.toInt < 16 := BitVec.toInt_lt
    exact .inr ⟨⟨x.toInt.toNat, by omega⟩, (Int.toNat_of_nonneg h).symm⟩

theorem mem_scanRange {first last n : Pos} : n ∈ scanRange first last ↔ first ≤ n ∧ n ≤ last := by
  simp [scanRange, mem_allPositions]

theorem pairwise_scanRange (first last : Pos) : (scanRange first last).Pairwise (· < ·) :=
  List.Pairwise.filter _ (by decide)

/-- Between its ends a block leaves out no position. -/
theorem isChain_scanRange (first last : Pos) : (scanRange first last).IsChain (fun m n => n.val = m.val + 1) := by
  revert first last
  decide

/-- The positions of a block after its first. -/
def positionsAfter (first last : Pos) : List Pos :=
  allPositions.filter (fun n => decide (first < n) && decide (n ≤ last))

theorem first_lt_of_mem_positionsAfter {first last n : Pos} (h : n ∈ positionsAfter first last) : first < n := by
  obtain ⟨hlt, -⟩ : first < n ∧ n ≤ last := by simpa [positionsAfter, mem_allPositions] using h
  exact hlt

theorem scanRange_eq_cons {first last : Pos} (h : first ≤ last) :
    scanRange first last = first :: positionsAfter first last := by
  revert first last
  decide

theorem head?_scanRange {first last n : Pos} (h : n ∈ (scanRange first last).head?) : n = first := by
  obtain ⟨hfirst, hlast⟩ := mem_scanRange.mp (List.mem_of_mem_head? h)
  rw [scanRange_eq_cons (hfirst.trans hlast)] at h
  simpa using h.symm

theorem length_scanRange_le (first last : Pos) : (scanRange first last).length ≤ 16 :=
  List.length_filter_le _ allPositions

/-! ### Table reads -/

section Reads

variable {s : State} {b : Band} {c : Ctx} {pos : Pos}

theorem readProb_of_some {p : BitVec 8} (h : Memory.read s.prob (probEntry b c) = some p) :
    s.readProb b c pos = .ok p := by
  simp [State.readProb, h]

theorem readProb_of_none (h : Memory.read s.prob (probEntry b c) = none) :
    s.readProb b c pos = .error ⟨.unwrittenTable, pos⟩ := by
  simp [State.readProb, h]

theorem readCostt_of_some {l : Level} {t : BitVec 16} (h : Memory.read s.costt (costtEntry b c l) = some t) :
    s.readCostt b c l pos = .ok t := by
  simp [State.readCostt, h]

theorem readCostt_of_none {l : Level} (h : Memory.read s.costt (costtEntry b c l) = none) :
    s.readCostt b c l pos = .error ⟨.unwrittenTable, pos⟩ := by
  simp [State.readCostt, h]

end Reads

/-! ### The faults and the total of a block, by position -/

section Block

variable (s : State) (ctx0 : Ctx) (p0 : BitVec 8) (first last : Pos) (coef : Vector (BitVec 16) 16)

/-- Rows 8 and 8' at one position (42_cost_estimator.md R111). -/
def positionFault (n : Pos) : Option Raise :=
  if s.cfg.maxLevel < mag coef[n] then some ⟨.levelRange, n⟩
  else if rowEntry s ctx0 first coef n = none then some ⟨.unwrittenTable, n⟩
  else none

/-- Row 9 (42_cost_estimator.md R111). -/
def endFault : Option Raise :=
  if h : last.val < 15 ∧ endEntry s coef last = none then some ⟨.unwrittenTable, ⟨last.val + 1, by omega⟩⟩ else none

/-- Rows 8 to 9: the first position with a fault decides, then the terminating signal (42_cost_estimator.md R111). -/
def blockFault : Option Raise :=
  ((scanRange first last).findSome? (positionFault s ctx0 first coef)).or (endFault s last coef)

/-- The base cost as a number (42_cost_estimator.md R103). -/
def baseTerm : Nat := if ctx0 = 0 then (s.readEcostYes p0).toNat else 0

/-- The sum of the terms of a non-empty block (42_cost_estimator.md R102, R103, R106). -/
def blockTotal : Nat :=
  baseTerm s ctx0 p0 + ((scanRange first last).map (positionCost s ctx0 first coef)).sum + endCost s coef last

/-- What a computation that adds `total` unless it raises `fault` answers, in the 32-bit accumulator. -/
def faultOr (fault : Option Raise) (total : Nat) : Except Raise (BitVec 32) :=
  fault.elim (.ok (BitVec.ofNat 32 total)) .error

variable {s ctx0 p0 first last coef}

theorem positionFault_of_range {n : Pos} (h : s.cfg.maxLevel < mag coef[n]) :
    positionFault s ctx0 first coef n = some ⟨.levelRange, n⟩ := if_pos h

theorem positionFault_of_unwritten {n : Pos} (h : mag coef[n] ≤ s.cfg.maxLevel)
    (hrow : rowEntry s ctx0 first coef n = none) :
    positionFault s ctx0 first coef n = some ⟨.unwrittenTable, n⟩ := by
  rw [positionFault, if_neg (Nat.not_lt.mpr h), if_pos hrow]

theorem positionFault_eq_none {n : Pos} : positionFault s ctx0 first coef n = none ↔
    mag coef[n] ≤ s.cfg.maxLevel ∧ (rowEntry s ctx0 first coef n).isSome = true := by
  obtain hrange | hrange := lt_or_ge s.cfg.maxLevel (mag coef[n])
  · simp [positionFault_of_range hrange, -Fin.getElem_fin, Nat.not_le.mpr hrange]
  · simp [positionFault, Nat.not_lt.mpr hrange, -Fin.getElem_fin, hrange, Option.isSome_iff_ne_none]

theorem endFault_of_unwritten (h : last.val < 15) (hend : endEntry s coef last = none) :
    endFault s last coef = some ⟨.unwrittenTable, ⟨last.val + 1, by omega⟩⟩ := dif_pos ⟨h, hend⟩

theorem endFault_eq_none : endFault s last coef = none ↔
    (last.val < 15 → (endEntry s coef last).isSome = true) := by
  simp [endFault, Option.isSome_iff_ne_none]

theorem blockFault_eq_none : blockFault s ctx0 first last coef = none ↔
    (∀ n ∈ scanRange first last, positionFault s ctx0 first coef n = none) ∧ endFault s last coef = none := by
  simp [blockFault]

/-- The lowest position with a fault decides. -/
theorem blockFault_of_positionFault {n : Pos} {r : Raise} (hn : n ∈ scanRange first last)
    (hr : positionFault s ctx0 first coef n = some r)
    (hlow : ∀ m ∈ scanRange first last, m < n → positionFault s ctx0 first coef m = none) :
    blockFault s ctx0 first last coef = some r := by
  obtain ⟨before, after, hl⟩ := List.append_of_mem hn
  obtain ⟨-, -, hcross⟩ := List.pairwise_append.mp (hl ▸ pairwise_scanRange first last)
  have hbefore : before.findSome? (positionFault s ctx0 first coef) = none :=
    List.findSome?_eq_none_iff.mpr fun m hm =>
      hlow m (hl ▸ List.mem_append_left _ hm) (hcross m hm n List.mem_cons_self)
  rw [blockFault, hl, List.findSome?_append, hbefore, List.findSome?_cons_of_isSome (by simp [hr]), hr]
  rfl

theorem blockFault_of_endFault {r : Raise}
    (hpos : ∀ n ∈ scanRange first last, positionFault s ctx0 first coef n = none)
    (hr : endFault s last coef = some r) : blockFault s ctx0 first last coef = some r := by
  rw [blockFault, List.findSome?_eq_none_iff.mpr hpos, hr]
  rfl

theorem positionCost_le (n : Pos) : positionCost s ctx0 first coef n ≤ 131070 := by
  have hlfc := (s.readLfc (mag coef[n])).isLt
  unfold positionCost
  cases rowEntry s ctx0 first coef n with
  | none =>
    simp only [Option.map_none, Option.getD_none]
    omega
  | some t =>
    have ht := t.isLt
    simp only [Option.map_some, Option.getD_some]
    omega

theorem endCost_le : endCost s coef last ≤ 65535 := by
  unfold endCost
  split
  · cases endEntry s coef last with
    | none => simp
    | some p =>
      have hno := (s.readEcostNo p).isLt
      simp only [Option.map_some, Option.getD_some]
      omega
  · simp

theorem baseTerm_le : baseTerm s ctx0 p0 ≤ 65535 := by
  have hyes := (s.readEcostYes p0).isLt
  unfold baseTerm
  split <;> omega

/-- At most one base term, 16 coefficient terms and one terminating term (42_cost_estimator.md R109). -/
theorem blockTotal_le : blockTotal s ctx0 p0 first last coef ≤ 2228190 := by
  have hsum : ((scanRange first last).map (positionCost s ctx0 first coef)).sum ≤
      (scanRange first last).length * 131070 := by
    simpa using List.sum_le_card_nsmul ((scanRange first last).map (positionCost s ctx0 first coef)) 131070
      (List.forall_mem_map.mpr fun n _ => positionCost_le n)
  have hlen := length_scanRange_le first last
  have hbase : baseTerm s ctx0 p0 ≤ 65535 := baseTerm_le
  have hend : endCost s coef last ≤ 65535 := endCost_le
  unfold blockTotal
  omega

theorem toNat_ofNat_blockTotal :
    (BitVec.ofNat 32 (blockTotal s ctx0 p0 first last coef)).toNat = blockTotal s ctx0 p0 first last coef := by
  have hle : blockTotal s ctx0 p0 first last coef ≤ 2228190 := blockTotal_le
  rw [BitVec.toNat_ofNat]
  exact Nat.mod_eq_of_lt (by omega)

/-! ### The loop computes them -/

theorem baseCost_eq : baseCost s ctx0 p0 = BitVec.ofNat 32 (baseTerm s ctx0 p0) := by
  unfold baseCost baseTerm
  split
  · exact (BitVec.ofNat_toNat _ _).symm
  · rfl

theorem levelCost_eq (n : Pos) :
    levelCost s (s.readBand n.castSucc) (rowContext ctx0 first coef n) (scalarLane coef n) n =
      faultOr (positionFault s ctx0 first coef n) (positionCost s ctx0 first coef n) := by
  unfold levelCost
  rw [scalarLane_mag, scalarLane_level]
  obtain hrange | hrange := lt_or_ge s.cfg.maxLevel (mag coef[n])
  · rw [if_pos hrange, positionFault_of_range hrange]
    rfl
  · rw [if_neg (Nat.not_lt.mpr hrange)]
    cases hrow : rowEntry s ctx0 first coef n with
    | none =>
      rw [readCostt_of_none hrow, positionFault_of_unwritten hrange hrow]
      rfl
    | some t =>
      rw [readCostt_of_some hrow, positionFault_eq_none.mpr ⟨hrange, by simp [hrow]⟩]
      simp [faultOr, positionCost, hrow, BitVec.ofNat_add]

theorem terminatingCost_eq : terminatingCost s (scalarLane coef) last =
    faultOr (endFault s last coef) (endCost s coef last) := by
  unfold terminatingCost
  rw [scalarLane_ctx]
  by_cases hlast : last.val < 15
  · rw [dif_pos hlast]
    cases hend : endEntry s coef last with
    | none =>
      rw [readProb_of_none hend, endFault_of_unwritten hlast hend]
      rfl
    | some p =>
      rw [readProb_of_some hend, endFault_eq_none.mpr (by simp [hend])]
      simp [faultOr, endCost, hlast, hend]
  · simp [endFault, endCost, hlast, faultOr]

theorem rowContext_first : rowContext ctx0 first coef first = ctx0 := if_pos (Nat.le_refl _)

theorem rowContext_of_succ {m n : Pos} (hn : first ≤ n) (hm : m.val = n.val + 1) :
    rowContext ctx0 first coef m = bucket (mag coef[n]) := by
  have hafter : ¬ m.val ≤ first.val := by
    have hn : first.val ≤ n.val := hn
    omega
  rw [rowContext, if_neg hafter]
  simp [hm]

/-- Over consecutive positions of the block the loop's row is the row of the position (42_cost_estimator.md R108). -/
theorem costLoop_eq (ns : List Pos) (b : Band) (c : Ctx) (acc : Nat)
    (hchain : ns.IsChain fun m n => n.val = m.val + 1) (hmem : ∀ n ∈ ns, first ≤ n ∧ n ≤ last)
    (hrow : ∀ n ∈ ns.head?, b = s.readBand n.castSucc ∧ c = rowContext ctx0 first coef n) :
    costLoop s (scalarLane coef) last ns b c (BitVec.ofNat 32 acc) =
      faultOr (ns.findSome? (positionFault s ctx0 first coef))
        (acc + (ns.map (positionCost s ctx0 first coef)).sum) := by
  induction ns generalizing b c acc with
  | nil => rfl
  | cons n ns ih =>
    obtain ⟨rfl, rfl⟩ := hrow n rfl
    obtain ⟨hnext, hchain⟩ := List.isChain_cons.mp hchain
    obtain ⟨hn, hmem⟩ := List.forall_mem_cons.mp hmem
    rw [costLoop, levelCost_eq]
    cases hfault : positionFault s ctx0 first coef n with
    | some r => simp [faultOr, hfault]
    | none =>
      simp only [faultOr, Option.elim_none, ← BitVec.ofNat_add, List.findSome?_cons, hfault, List.map_cons,
        List.sum_cons, ← Nat.add_assoc]
      split
      · refine ih _ _ _ hchain hmem fun m hm => ?_
        have hsucc : m.val = n.val + 1 := hnext m hm
        have hband : n.succ = m.castSucc := Fin.ext hsucc.symm
        exact ⟨by rw [hband], (rowContext_of_succ hn.1 hsucc).symm⟩
      · refine ih _ _ _ hchain hmem fun m hm => absurd ?_ ‹¬ n < last›
        have hsucc : m.val = n.val + 1 := hnext m hm
        have hlast : m.val ≤ last.val := (hmem m (List.mem_of_mem_head? hm)).2
        exact Fin.lt_def.mpr (by omega)

theorem blockCost_eq (sel : Bool) : blockCost s (laneBy sel coef) ctx0 p0 first last =
    faultOr (blockFault s ctx0 first last coef) (blockTotal s ctx0 p0 first last coef) := by
  unfold blockCost
  rw [laneBy_eq_scalarLane, baseCost_eq, costLoop_eq (ctx0 := ctx0) (first := first) _ _ _ _
    (isChain_scanRange first last) (fun n => mem_scanRange.mp), terminatingCost_eq]
  · unfold blockFault blockTotal
    cases (scanRange first last).findSome? (positionFault s ctx0 first coef) with
    | some r => rfl
    | none =>
      cases endFault s last coef with
      | some r => rfl
      | none => simp [faultOr, BitVec.ofNat_add]
  · intro n hn
    obtain rfl := head?_scanRange hn
    exact ⟨rfl, rowContext_first.symm⟩

end Block

/-! ### The checks of `COST` and its answer -/

section Checks

variable {s : State} {u : UnitState} {ctx0 : Ctx} {p0 : BitVec 8} {total : BitVec 32}

theorem brokenPromise_eq_none : brokenPromise u = none ↔ u.promiseKept := by
  simp [brokenPromise, mem_allPositions, UnitState.promiseKept, Fin.lt_def, firstPosition]

theorem brokenPromise_eq_some {i : Pos} (hi : i.val < u.first.toNat) (hne : u.coef[i] ≠ 0)
    (hlow : ∀ j : Pos, j < i → u.coef[j] = 0) : brokenPromise u = some i := by
  refine find?_allPositions_eq_some.mpr ⟨?_, fun j hj => ?_⟩
  · simpa [Fin.lt_def, firstPosition, hi] using hne
  · simp [hlow j hj, -Fin.getElem_fin]

theorem costValue_notInit (h : s.initDone = false) : costValue s u ctx0 = .error ⟨.notInit, 0⟩ := if_pos h

theorem costValue_unwritten (hd : s.initDone = true) (h : u.firstV = false ∨ u.lastV = false) :
    costValue s u ctx0 = .error ⟨.unwrittenState, 0⟩ := by
  obtain h | h := h
  · simp [costValue, hd, h]
  · simp [costValue, hd, h]

theorem costValue_written (hd : s.initDone = true) (hfirst : u.firstV = true) (hlast : u.lastV = true) :
    costValue s u ctx0 = (brokenPromise u).elim (totalCost s u ctx0) (fun i => .error ⟨.contractFirst, i⟩) := by
  simp only [costValue, hd, hfirst, hlast, reduceCtorEq, if_false]
  cases brokenPromise u <;> rfl

theorem costValue_ready (hd : s.initDone = true) (hfirst : u.firstV = true) (hlast : u.lastV = true)
    (hp : u.promiseKept) : costValue s u ctx0 = totalCost s u ctx0 := by
  rw [costValue_written hd hfirst hlast, brokenPromise_eq_none.mpr hp]
  rfl

/-- What `COST` answers has passed the checks before the tables (42_cost_estimator.md R111). -/
theorem ready_of_costValue_ok (h : costValue s u ctx0 = .ok total) :
    u.lastV = true ∧ u.promiseKept ∧ totalCost s u ctx0 = .ok total := by
  have hd : s.initDone = true := eq_true_of_ne_false fun hd => nomatch (costValue_notInit hd).symm.trans h
  have hfirst : u.firstV = true := eq_true_of_ne_false fun hf => nomatch (costValue_unwritten hd (.inl hf)).symm.trans h
  have hlast : u.lastV = true := eq_true_of_ne_false fun hl => nomatch (costValue_unwritten hd (.inr hl)).symm.trans h
  rw [costValue_written hd hfirst hlast] at h
  cases hp : brokenPromise u with
  | some i => simp [hp] at h
  | none => exact ⟨hlast, brokenPromise_eq_none.mp hp, by simpa [hp] using h⟩

theorem totalCost_unwritten (h : startEntry s ctx0 (firstPosition u.first) = none) :
    totalCost s u ctx0 = .error ⟨.unwrittenTable, firstPosition u.first⟩ := by
  simp only [totalCost, readProb_of_none h]

theorem totalCost_empty (h : startEntry s ctx0 (firstPosition u.first) = some p0) (hlast : u.last.toInt < 0) :
    totalCost s u ctx0 = .ok ((s.readEcostNo p0).setWidth 32) := by
  simp only [totalCost, readProb_of_some h, lastPosition_eq_none hlast]

theorem totalCost_block {last : Pos} (h : startEntry s ctx0 (firstPosition u.first) = some p0)
    (hlast : u.last.toInt = last.val) : totalCost s u ctx0 =
      faultOr (blockFault s ctx0 (firstPosition u.first) last u.coef)
        (blockTotal s ctx0 p0 (firstPosition u.first) last u.coef) := by
  simp only [totalCost, readProb_of_some h, lastPosition_eq_some hlast, blockCost_eq]

theorem faultOr_eq_ok {fault : Option Raise} {n : Nat} (h : faultOr fault n = .ok total) :
    total = BitVec.ofNat 32 n := by
  cases fault with
  | none => exact (Except.ok.inj h).symm
  | some r => cases h

/-- `COST` computes from the shared state and its own unit's block: what the state holds for its units does not matter
(42_cost_estimator.md R112). -/
theorem costValue_setUnit (v : UnitState) : costValue (s.setUnit v) u ctx0 = costValue s u ctx0 := by
  simp only [costValue, totalCost, blockCost_eq]
  rfl

end Checks

/-! ### `COST` on a running unit -/

section Running

variable {s t : State} {u u' : UnitState} {ctx0 : Ctx} (hu : s.unit = some u) (hf : u.faulted = false)
include hu hf

theorem exec_cost_of_ok {total : BitVec 32} (h : costValue s u ctx0 = .ok total) :
    exec (.cost ctx0) s = .next (s.setUnit ((u.setResult total).respond total)) := by
  refine (cost_running hu hf ctx0).trans ?_
  rw [h]

theorem exec_cost_of_error {r : Raise} (h : costValue s u ctx0 = .error r) :
    exec (.cost ctx0) s = .next (s.takeFault u (encode (.cost ctx0)) r) := by
  refine (cost_running hu hf ctx0).trans ?_
  rw [h]

/-- A `COST` without a fault wrote a total to `RESULT` and responded with it. -/
theorem exec_cost_completed (h : exec (.cost ctx0) s = .next t) (hu' : t.unit = some u') (hf' : u'.faulted = false) :
    ∃ total, costValue s u ctx0 = .ok total ∧ u' = (u.setResult total).respond total ∧ t = s.setUnit u' := by
  cases hc : costValue s u ctx0 with
  | error r =>
    cases (exec_cost_of_error hu hf hc).symm.trans h
    cases (unit_setUnit hu _).symm.trans hu'
    cases hf'
  | ok total =>
    cases (exec_cost_of_ok hu hf hc).symm.trans h
    cases (unit_setUnit hu _).symm.trans hu'
    exact ⟨total, rfl, rfl, rfl⟩

end Running

/-- Settles O22: past the checks, the branch without a last position reads the starting probability only. -/
theorem costOfAnEmptyBlock : Obligations.CostOfAnEmptyBlock := by
  intro s u ctx0 p0 hu ⟨hf, hfirst, hlastV⟩ hd hp hlast hstart
  have hc : costValue s u ctx0 = .ok ((s.readEcostNo p0).setWidth 32) := by
    rw [costValue_ready hd hfirst hlastV hp, totalCost_empty hstart hlast]
  exact exec_cost_of_ok hu hf hc

/-- Settles O23: the loop with its running row adds the terms of the positions, and the accumulator does not wrap. -/
theorem costIsTheSumOfItsTerms : Obligations.CostIsTheSumOfItsTerms := by
  intro s u ctx0 p0 last hu ⟨hf, hfirst, hlastV⟩ hd hp hlast hstart hpos hend
  have hfault : blockFault s ctx0 (firstPosition u.first) last u.coef = none :=
    blockFault_eq_none.mpr ⟨fun n hn => positionFault_eq_none.mpr (hpos n hn), endFault_eq_none.mpr hend⟩
  refine ⟨_, exec_cost_of_ok hu hf ?_, toNat_ofNat_blockTotal⟩
  rw [costValue_ready hd hfirst hlastV hp, totalCost_block hstart hlast, hfault]
  rfl

theorem costValue_ok_le {s : State} {u : UnitState} {ctx0 : Ctx} {total : BitVec 32}
    (h : costValue s u ctx0 = .ok total) : total.toNat ≤ 2228190 := by
  obtain ⟨-, -, h⟩ := ready_of_costValue_ok h
  cases hstart : startEntry s ctx0 (firstPosition u.first) with
  | none => cases (totalCost_unwritten hstart).symm.trans h
  | some p0 =>
    obtain hlast | ⟨last, hlast⟩ := toInt_cases u.last
    · cases (totalCost_empty hstart hlast).symm.trans h
      have hno := (s.readEcostNo p0).isLt
      rw [BitVec.toNat_setWidth_of_le (by decide)]
      omega
    · rw [totalCost_block hstart hlast] at h
      rw [faultOr_eq_ok h, toNat_ofNat_blockTotal]
      exact blockTotal_le

/-- Settles O24: an empty block costs one 16-bit term, another one at most 34 of them (`blockTotal_le`). -/
theorem costTotalIsBounded : Obligations.CostTotalIsBounded := by
  intro s t u u' ctx0 hu hf h hu' hf'
  obtain ⟨total, hc, rfl, -⟩ := exec_cost_completed hu hf h hu' hf'
  exact ⟨rfl, costValue_ok_le hc⟩

/-- Settles O25: each row is the first check of `COST` that fails, in the words of `costValue`, `positionFault` and
`endFault`. -/
theorem costFaultsInOrder : Obligations.CostFaultsInOrder := by
  intro s u hu hf
  refine ⟨fun m c hm => runWord_illegalCmd hu hf ((decode_cost _ m c).trans (if_neg hm)),
    runWord_illegalOperand hu hf rfl, fun ctx0 => ⟨fun hd => exec_cost_of_error hu hf (costValue_notInit hd),
      fun hd h => exec_cost_of_error hu hf (costValue_unwritten hd h),
      fun hd hfirst hlastV => ⟨?_, fun hp => ⟨?_, ?_⟩⟩⟩⟩
  · intro i hi hne hlow
    refine exec_cost_of_error hu hf (r := ⟨.contractFirst, i⟩) ?_
    rw [costValue_written hd hfirst hlastV, brokenPromise_eq_some hi hne hlow]
    rfl
  · intro hstart
    rw [← BitVec.ofNat_toNat]
    refine exec_cost_of_error hu hf (r := ⟨.unwrittenTable, firstPosition u.first⟩) ?_
    rw [costValue_ready hd hfirst hlastV hp, totalCost_unwritten hstart]
  · intro last hstart hlast
    obtain ⟨p0, hstart⟩ := Option.isSome_iff_exists.mp hstart
    have hblock {r : Raise} (hr : blockFault s ctx0 (firstPosition u.first) last u.coef = some r) :
        exec (.cost ctx0) s = .next (s.takeFault u (encode (.cost ctx0)) r) := by
      refine exec_cost_of_error hu hf ?_
      rw [costValue_ready hd hfirst hlastV hp, totalCost_block hstart hlast, hr]
      rfl
    refine ⟨fun n hn hlow => ?_, fun hpos hlt hend => ?_⟩
    · have hat {r : Raise} (hr : positionFault s ctx0 (firstPosition u.first) u.coef n = some r) :=
        hblock (blockFault_of_positionFault hn hr fun m hm hmn => positionFault_eq_none.mpr (hlow m hm hmn))
      exact ⟨fun hrange => hat (positionFault_of_range hrange),
        fun hrange hrow => hat (positionFault_of_unwritten hrange hrow)⟩
    · exact hblock (blockFault_of_endFault (fun n hn => positionFault_eq_none.mpr (hpos n hn))
        (endFault_of_unwritten hlt hend))

/-- Settles O26: `RESULT` and the response channel are not read by `COST`, and `RESULT` holds the total already. -/
theorem repeatedCostIsTheSame : Obligations.RepeatedCostIsTheSame := by
  intro s t u u' ctx0 hu hf h hu' hf'
  obtain ⟨total, hc, rfl, rfl⟩ := exec_cost_completed hu hf h hu' hf'
  exact exec_cost_of_ok hu' hf' ((costValue_setUnit _).trans hc)

/-! ### The starting context -/

section Context

variable {s : State} {u : UnitState} {ctx0 : Ctx} {p0 : BitVec 8} {first last : Pos} {coef : Vector (BitVec 16) 16}

theorem first_le_last (hmatch : u.lastMatches) (hlastV : u.lastV = true) (hp : u.promiseKept)
    (hlast : u.last.toInt = last.val) : firstPosition u.first ≤ last := by
  obtain ⟨-, hscan⟩ := hmatch hlastV
  obtain ⟨hne, -⟩ := detectLast_eq_val.mp (hscan.symm.trans hlast)
  exact Nat.le_of_not_lt fun hlt => hne (hp last hlt)

/-- Only the row of `FIRST` has the starting context (42_cost_estimator.md R108). -/
theorem positionCost_of_first_lt {n : Pos} (h : first < n) (ctx0 ctx1 : Ctx) :
    positionCost s ctx0 first coef n = positionCost s ctx1 first coef n := by
  have hn : ¬ n.val ≤ first.val := Nat.not_le.mpr h
  simp only [positionCost, rowEntry, rowContext, if_neg hn]

/-- The terms of a non-empty block that the starting context does not change. -/
def restTotal (s : State) (first last : Pos) (coef : Vector (BitVec 16) 16) : Nat :=
  (s.readLfc (mag coef[first])).toNat + ((positionsAfter first last).map (positionCost s 0 first coef)).sum +
    endCost s coef last

theorem blockTotal_eq_restTotal {e : BitVec 16} (hle : first ≤ last) (he : rowEntry s ctx0 first coef first = some e) :
    blockTotal s ctx0 p0 first last coef = baseTerm s ctx0 p0 + e.toNat + restTotal s first last coef := by
  have hrest : (positionsAfter first last).map (positionCost s ctx0 first coef) =
      (positionsAfter first last).map (positionCost s 0 first coef) :=
    List.map_congr_left fun _ hn => positionCost_of_first_lt (first_lt_of_mem_positionsAfter hn) ctx0 0
  have hfirst : positionCost s ctx0 first coef first = (s.readLfc (mag coef[first])).toNat + e.toNat := by
    simp [positionCost, he]
  rw [blockTotal, scanRange_eq_cons hle, List.map_cons, List.sum_cons, hrest, hfirst, restTotal]
  omega

/-- The total of a non-empty block, split at the starting context (42_cost_estimator.md R112). -/
theorem toNat_costValue_ok {total : BitVec 32} {e : BitVec 16} (h : costValue s u ctx0 = .ok total)
    (hmatch : u.lastMatches) (hlast : u.last.toInt = last.val)
    (he : rowEntry s ctx0 (firstPosition u.first) u.coef (firstPosition u.first) = some e) :
    ∃ p0, startEntry s ctx0 (firstPosition u.first) = some p0 ∧
      total.toNat = baseTerm s ctx0 p0 + e.toNat + restTotal s (firstPosition u.first) last u.coef := by
  obtain ⟨hlastV, hp, h⟩ := ready_of_costValue_ok h
  cases hstart : startEntry s ctx0 (firstPosition u.first) with
  | none => cases (totalCost_unwritten hstart).symm.trans h
  | some p0 =>
    rw [totalCost_block hstart hlast] at h
    refine ⟨p0, rfl, ?_⟩
    rw [faultOr_eq_ok h, toNat_ofNat_blockTotal,
      blockTotal_eq_restTotal (first_le_last hmatch hlastV hp hlast) he]

end Context

/-- Settles O27: both totals are the same rest plus the base cost and the first position's entry. -/
theorem startingContextChangesTwoTerms : Obligations.StartingContextChangesTwoTerms := by
  intro s t0 tc u u0 uc ctx0 p0 e0 ec hu hf hmatch hnonneg hctx h0 hu0 hf0 hc huc hfc hstart he0 hec
  obtain hneg | ⟨last, hlast⟩ := toInt_cases u.last
  · omega
  obtain ⟨total0, hv0, rfl, -⟩ := exec_cost_completed hu hf h0 hu0 hf0
  obtain ⟨totalc, hvc, rfl, -⟩ := exec_cost_completed hu hf hc huc hfc
  obtain ⟨p, hp, hsum0⟩ := toNat_costValue_ok hv0 hmatch hlast he0
  obtain ⟨_, -, hsumc⟩ := toNat_costValue_ok hvc hmatch hlast hec
  obtain rfl : p = p0 := Option.some.inj (hp.symm.trans hstart)
  simp only [baseTerm, if_true] at hsum0
  simp only [baseTerm, if_neg hctx] at hsumc
  show total0.toNat + ec.toNat = totalc.toNat + (s.readEcostYes p).toNat + e0.toNat
  omega

end Sys2Proof.Machine
end

section
/-! PROOFS. The system commands: what `NOP`, `INIT` and `RDREG` do (43_strategy_system.md R130, R131, R133). -/

namespace Sys2Proof.Machine

/-! ### `NOP` and `INIT` -/

/-- Settles O11: dropping `NOP` and executing it are the same. -/
theorem nopChangesNothing : Obligations.NopChangesNothing := by
  refine ⟨fun nb m => decode_formatZ nb (op := .nop) rfl rfl rfl m, fun s u hu => ?_⟩
  cases hf : u.faulted with
  | false => exact command_running hu hf _
  | true => exact command_faulted hu hf _

theorem exec_init_running {s : State} {u : UnitState} (hu : s.unit = some u) (hf : u.faulted = false) :
    exec .init s = .next s.setStrategy := command_running hu hf _

/-- Settles O29: the second `INIT` runs on the same unit and selects by the same `CAP`. -/
theorem initSelectsOnce : Obligations.InitSelectsOnce :=
  ⟨fun nb m => decode_formatZ nb (op := .init) rfl rfl rfl m, fun s _ hu =>
    ⟨fun hf => ⟨s.setStrategy, exec_init_running hu hf, rfl, exec_init_running (s := s.setStrategy) hu hf⟩,
      fun hf => command_faulted hu hf _⟩⟩

/-! ### `RDREG` -/

theorem encode_rdreg (reg : Reg) : encode (.rdreg reg) = 0x70000000 + (regNumber reg).setWidth 32 := by
  have hword : (encode (.rdreg reg)).toNat = 0x70000000 + (regNumber reg).toNat :=
    toNat_append_eq_add (0x7#4 ++ 0#22) (regNumber reg)
  bv_omega

section Answer

variable {s : State} {u : UnitState} {reg : Reg}

theorem answerReg_of_some {v : Word} (h : regValue s u reg = some v) (novalue : State) :
    answerReg s u reg novalue = s.setUnit (u.respond v) := by
  rw [answerReg, h]

theorem answerReg_of_none (h : regValue s u reg = none) (novalue : State) : answerReg s u reg novalue = novalue := by
  rw [answerReg, h]

/-- The registers a faulted unit answers have no valid flag (10_state.md R25, 60_exceptions.md R161). -/
theorem regValue_of_readableWhileFaulted (h : readableWhileFaulted reg = true) : ∃ v, regValue s u reg = some v := by
  cases reg with
  | status | fault | finfo | cap | unitId | params => exact ⟨_, rfl⟩
  | first | last | result | strat | coef => cases h

theorem exec_rdreg_running (hu : s.unit = some u) (hf : u.faulted = false) : exec (.rdreg reg) s =
    .next (answerReg s u reg (s.takeFault u (encode (.rdreg reg)) ⟨.unwrittenState, 0⟩)) := onUnit_running hu hf _ _

theorem exec_rdreg_faulted (hu : s.unit = some u) (hf : u.faulted = true) : exec (.rdreg reg) s =
    .next (if readableWhileFaulted reg then answerReg s u reg s else s) := onUnit_faulted hu hf _ _

end Answer

/-- Settles O34: on each kind of unit, whether the register has a value decides. -/
theorem rdregAnswersTheRegister : Obligations.RdregAnswersTheRegister := by
  refine ⟨fun nb m r => ?_, fun s u reg hu => ⟨fun hf v hv => ?_, fun hf hv => ?_, fun hf hr => ?_, fun hf hr => ?_⟩⟩
  · rw [decode_rdreg]
    cases regOfBits r <;> rfl
  · rw [exec_rdreg_running hu hf, answerReg_of_some hv]
    rfl
  · rw [exec_rdreg_running hu hf, answerReg_of_none hv, encode_rdreg]
    rfl
  · have hread : readableWhileFaulted reg = true := (readableWhileFaulted_iff reg).mpr hr
    obtain ⟨v, hv⟩ := regValue_of_readableWhileFaulted (s := s) (u := u) hread
    refine ⟨v, hv, ?_⟩
    rw [exec_rdreg_faulted hu hf, if_pos hread, answerReg_of_some hv]
    rfl
  · rw [exec_rdreg_faulted hu hf, if_neg (mt (readableWhileFaulted_iff reg).mp hr)]

end Sys2Proof.Machine
end

section
/-! PROOFS. The selection is unobservable: every command but `RDREG 6` does the same whatever `SEL_DET` and `SEL_COST`
hold (43_strategy_system.md R132). -/

namespace Sys2Proof.Machine

/-- The state with other selections (10_state.md R21). -/
def State.select (s : State) (selDet selCost : Bool) : State := { s with selDet := selDet, selCost := selCost }

/-- Two states are the same but for the selections. -/
def State.sameButSelection (s t : State) : Prop := t.select s.selDet s.selCost = s

section Selection

variable {s t : State} {u : UnitState} {a b : Bool}

theorem detlastIndex_select : detlastIndex (s.select a b) u = detlastIndex s u := by
  simp only [detlastIndex, detectLastBy_eq_detectLast]
  rfl

theorem costValue_select {ctx0 : Ctx} : costValue (s.select a b) u ctx0 = costValue s u ctx0 := by
  simp only [costValue, totalCost, blockCost_eq]
  rfl

theorem regValue_select {reg : Reg} (hreg : reg ≠ .strat) : regValue (s.select a b) u reg = regValue s u reg := by
  cases reg with
  | strat => exact absurd rfl hreg
  | _ => rfl

theorem answerReg_sameButSelection {reg : Reg} (hreg : reg ≠ .strat) {m n : State} (h : m.sameButSelection n) :
    (answerReg s u reg m).sameButSelection (answerReg (s.select a b) u reg n) := by
  unfold answerReg
  rw [regValue_select hreg]
  split
  · rfl
  · exact h

theorem ite_sameButSelection {p : Prop} [Decidable p] {m m' n n' : State} (hm : m.sameButSelection m')
    (hn : n.sameButSelection n') : (if p then m else n).sameButSelection (if p then m' else n') := by
  split
  · exact hm
  · exact hn

/-- The prologue does not look at the selections (60_exceptions.md R155). -/
theorem onUnit_sameButSelection {dropped body dropped' body' : UnitState → State}
    (h : onUnit s dropped body = .next t) (hdropped : ∀ u, (dropped u).sameButSelection (dropped' u))
    (hbody : ∀ u, (body u).sameButSelection (body' u)) :
    ∃ t', onUnit (s.select a b) dropped' body' = .next t' ∧ t.sameButSelection t' := by
  obtain ⟨u, hu, ⟨hf, rfl⟩ | ⟨hf, rfl⟩⟩ := onUnit_next h
  · exact ⟨_, onUnit_faulted (s := s.select a b) hu hf _ _, hdropped u⟩
  · exact ⟨_, onUnit_running (s := s.select a b) hu hf _ _, hbody u⟩

theorem exec_sameButSelection {i : Instr} (hi : i ≠ .rdreg .strat) (h : exec i s = .next t) :
    ∃ t', exec i (s.select a b) = .next t' ∧ t.sameButSelection t' := by
  cases i with
  | nop | init | clrcoef | ldcoef | setfirst =>
    exact onUnit_sameButSelection h (fun _ => rfl) (fun _ => rfl)
  | detlast =>
    refine onUnit_sameButSelection h (fun _ => rfl) (fun u => ?_)
    rw [detlastIndex_select]
    split <;> rfl
  | cost ctx0 =>
    refine onUnit_sameButSelection h (fun _ => rfl) (fun u => ?_)
    rw [costValue_select]
    split <;> rfl
  | rdreg reg =>
    have hreg : reg ≠ .strat := fun hs => hi (congrArg Instr.rdreg hs)
    exact onUnit_sameButSelection h (fun _ => ite_sameButSelection (answerReg_sameButSelection hreg rfl) rfl)
      (fun _ => answerReg_sameButSelection hreg rfl)
  | ldprob | ldcostt =>
    exact onUnit_sameButSelection h (fun _ => rfl) (fun _ => ite_sameButSelection rfl rfl)

end Selection

/-- Settles O30: both detectors and both estimators answer the same, and only register 6 shows the selection. -/
theorem selectionIsUnobservable : Obligations.SelectionIsUnobservable := fun _ _ _ _ _ hi h =>
  exec_sameButSelection hi h

end Sys2Proof.Machine
end

section
/-! PROOFS. What the commands that write shared state leave unchanged (43_strategy_system.md R131, 44_table_load.md R140,
R141, 20_memory.md R44). -/

namespace Sys2Proof.Machine

section Unfaulted

variable {s t : State} {u' : UnitState} (hu' : t.unit = some u') (hf' : u'.faulted = false)
include hu' hf'

/-- A command that writes or faults, and after which the unit has no fault, has written or was dropped. -/
theorem write_of_command {p : Prop} [Decidable p] {written : State} {w : Word} {r : Raise}
    (h : command s (fun u => if p then written else s.takeFault u w r) = .next t) : t = s ∨ t = written := by
  obtain ⟨u, hu, ⟨-, rfl⟩ | ⟨-, rfl⟩⟩ := command_next h
  · exact .inl rfl
  · by_cases hp : p
    · exact .inr (if_pos hp)
    · rw [if_neg hp] at hu'
      cases (unit_setUnit hu _).symm.trans hu'
      cases hf'

theorem exec_ldprob_unfaulted {band : Band} {ctx : Ctx} {val : BitVec 8} (h : exec (.ldprob band ctx val) s = .next t) :
    t = s ∨ t = s.writeProb band ctx val := write_of_command hu' hf' h

theorem exec_ldcostt_unfaulted {band : Band} {ctx : Ctx} {level : Level} {val : BitVec 16}
    (h : exec (.ldcostt band ctx level val) s = .next t) : t = s ∨ t = s.writeCostt band ctx level val :=
  write_of_command hu' hf' h

end Unfaulted

theorem sameShared_refl (s : State) : s.sameShared s := ⟨rfl, rfl, rfl, rfl, rfl, rfl, rfl, rfl⟩

theorem sameShared_writeProb (s : State) (b : Band) (c : Ctx) (v : BitVec 8) : s.sameShared (s.writeProb b c v) :=
  ⟨rfl, rfl, rfl, rfl, rfl, rfl, rfl, rfl⟩

theorem sameShared_writeCostt (s : State) (b : Band) (c : Ctx) (l : Level) (v : BitVec 16) :
    s.sameShared (s.writeCostt b c l v) := ⟨rfl, rfl, rfl, rfl, rfl, rfl, rfl, rfl⟩

/-- Settles O37: each command was dropped or did its one write, and a table's write keeps the other entries. -/
theorem sharedWritersFrame : Obligations.SharedWritersFrame := by
  intro s t u' hu' hf'
  refine ⟨fun h => ?_, fun band ctx val h => ?_, fun band ctx level val h => ?_⟩
  · obtain ⟨-, -, ⟨-, rfl⟩ | ⟨-, rfl⟩⟩ := command_next h <;>
      exact ⟨rfl, fun _ => rfl, fun _ => rfl, rfl, rfl, rfl, rfl, rfl⟩
  · obtain rfl | rfl := exec_ldprob_unfaulted hu' hf' h
    · exact ⟨rfl, sameShared_refl t, fun _ => rfl, fun _ _ => rfl⟩
    · exact ⟨rfl, sameShared_writeProb s band ctx val, fun _ => rfl, fun _ => read_write_other s.prob val⟩
  · obtain rfl | rfl := exec_ldcostt_unfaulted hu' hf' h
    · exact ⟨rfl, sameShared_refl t, fun _ => rfl, fun _ _ => rfl⟩
    · exact ⟨rfl, sameShared_writeCostt s band ctx level val, fun _ => rfl, fun _ => read_write_other s.costt val⟩

end Sys2Proof.Machine
end

section
/-! PROOFS. The table-load commands: their words, and the one entry each writes (44_table_load.md R140, R141;
30_encoding.md R65, R70). -/

namespace Sys2Proof.Machine

/-! ### The words -/

theorem bandOfBits_ofNat (nb : Nat) (band : Band) :
    bandOfBits nb (BitVec.ofNat 3 band.val) = if band.val < nb then some band else none := by
  split
  · exact bandOfBits_eq_some.mpr ⟨rfl, ‹_›⟩
  · exact bandOfBits_eq_none.mpr (by simp; omega)

/-- The fields of an `LDPROB` word are a command exactly when neither band nor context is reserved. -/
theorem ldprob_fields (nb : Nat) (band : Band) (c : BitVec 2) (val : BitVec 8) :
    ((bandOfBits nb (BitVec.ofNat 3 band.val)).bind fun b => (ctxOfBits c).map fun ctx =>
        Decoded.command (.ldprob b ctx val)).getD .illegalOperand =
      if h : band.val < nb ∧ c.toNat < 3 then .command (.ldprob band ⟨c.toNat, h.2⟩ val) else .illegalOperand := by
  rw [bandOfBits_ofNat]
  by_cases h : band.val < nb ∧ c.toNat < 3
  · simp [ctxOfBits, h]
  · rw [dif_neg h]
    obtain hb | hc : ¬ band.val < nb ∨ ¬ c.toNat < 3 := by omega
    · simp [hb]
    · simp [ctxOfBits, hc]

/-- The fields of an `LDCOSTT` word are a command exactly when none of band, context and level is reserved. -/
theorem ldcostt_fields (nb : Nat) (band : Band) (c : BitVec 2) (l : BitVec 7) (val : BitVec 16) :
    ((bandOfBits nb (BitVec.ofNat 3 band.val)).bind fun b => (ctxOfBits c).bind fun ctx =>
        (levelOfBits l).map fun level => Decoded.command (.ldcostt b ctx level val)).getD .illegalOperand =
      if h : band.val < nb ∧ c.toNat < 3 ∧ l.toNat < 68 then
        .command (.ldcostt band ⟨c.toNat, h.2.1⟩ ⟨l.toNat, h.2.2⟩ val)
      else .illegalOperand := by
  rw [bandOfBits_ofNat]
  by_cases h : band.val < nb ∧ c.toNat < 3 ∧ l.toNat < 68
  · simp [ctxOfBits, levelOfBits, h]
  · rw [dif_neg h]
    obtain hb | hc | hl : ¬ band.val < nb ∨ ¬ c.toNat < 3 ∨ ¬ l.toNat < 68 := by omega
    · simp [hb]
    · simp [ctxOfBits, hc]
    · simp [levelOfBits, hl]

/-! ### On a running unit -/

section Running

variable {s : State} {u : UnitState} (hu : s.unit = some u) (hf : u.faulted = false) (band : Band) (ctx : Ctx)
include hu hf

theorem exec_ldprob_running (val : BitVec 8) : exec (.ldprob band ctx val) s =
    .next (if band.val < s.cfg.numBands then s.writeProb band ctx val
      else latched s u 2 0 (encode (.ldprob band ctx val))) := command_running hu hf _

theorem exec_ldcostt_running (level : Level) (val : BitVec 16) : exec (.ldcostt band ctx level val) s =
    .next (if band.val < s.cfg.numBands then s.writeCostt band ctx level val
      else latched s u 2 0 (encode (.ldcostt band ctx level val))) := command_running hu hf _

end Running

/-- Settles O35: the fields decide what the word is, and the command is one write to the Probability Table. -/
theorem ldprobWritesOneEntry : Obligations.LdprobWritesOneEntry := by
  refine ⟨fun nb band c m val => ?_, fun s u band ctx val hu hf => ⟨fun hb => ?_, fun hb => ?_⟩⟩
  · rw [decode_ldprob, ldprob_fields, ite_not]
  · refine ⟨s.writeProb band ctx val, ?_, read_write_same s.prob _ val, fun _ => read_write_other s.prob val, rfl⟩
    rw [exec_ldprob_running hu hf, if_pos hb]
  · rw [exec_ldprob_running hu hf, if_neg (Nat.not_lt.mpr hb)]

/-- Settles O36: the fields decide what the word is, and the command is one write to the Cost Table. -/
theorem ldcosttWritesOneEntry : Obligations.LdcosttWritesOneEntry := by
  refine ⟨fun nb band c l val => ?_, fun s u band ctx level val hu hf => ⟨fun hb => ?_, fun hb => ?_⟩⟩
  · rw [decode_ldcostt, ldcostt_fields]
  · refine ⟨s.writeCostt band ctx level val, ?_, read_write_same s.costt _ val,
      fun _ => read_write_other s.costt val, rfl⟩
    rw [exec_ldcostt_running hu hf, if_pos hb]
  · rw [exec_ldcostt_running hu hf, if_neg (Nat.not_lt.mpr hb)]

end Sys2Proof.Machine
end

section
/-! PROOFS. Faults: the prologue of every word, which command raises which fault, what a fault writes, and that only
reset clears it (60_exceptions.md R150 to R163). -/

namespace Sys2Proof.Machine

/-! ### Every step completes -/

theorem handleEvent_total (e : Event) (s : State) : ∃ t, handleEvent e s = .next t := by
  cases e with
  | grant k => exact serve_total k s
  | present | drain | driveCap | reset => exact ⟨_, rfl⟩

theorem serveWaiting_total (s : State) : ∃ t, serveWaiting s = .next t := by
  unfold serveWaiting
  split
  · exact ⟨s, rfl⟩
  · exact serve_total _ s
  · exact serve_total _ _

/-- Settles O44: only existing units are served, so the model's `noSuchUnit` is out of reach. -/
theorem everyStepCompletes : Obligations.EveryStepCompletes := by
  intro s
  cases he : s.events with
  | nil => simpa only [step, advance, he] using serveWaiting_total s
  | cons e es => simpa only [step_of_event he] using handleEvent_total e _

/-! ### The prologue -/

section Dropped

variable {s : State} {u : UnitState} (hu : s.unit = some u) (hf : u.faulted = true)
include hu hf

theorem exec_dropped {i : Instr} (hi : ∀ reg, i = .rdreg reg → (regNumber reg).toNat ∉ [0, 4, 5, 7, 8, 9]) :
    exec i s = .next s := by
  cases i with
  | rdreg reg =>
    obtain ⟨-, -, -, hdrop⟩ := rdregAnswersTheRegister.2 s u reg hu
    exact hdrop hf (hi reg rfl)
  | nop | init | clrcoef | ldcoef | setfirst | detlast | cost | ldprob | ldcostt => exact command_faulted hu hf _

theorem runWord_dropped {w : Word}
    (hw : ∀ reg, decode s.cfg.numBands w = .command (.rdreg reg) → (regNumber reg).toNat ∉ [0, 4, 5, 7, 8, 9]) :
    runWord w s = .next s := by
  cases hd : decode s.cfg.numBands w with
  | command i =>
    rw [runWord_of_decode hd]
    exact exec_dropped hu hf fun reg hi => hw reg (hi ▸ hd)
  | illegalCmd | illegalOperand =>
    simp only [runWord, hd]
    exact command_faulted hu hf _

end Dropped

/-- Settles O40: a faulted unit does with `RDREG` what O34 says and drops the rest; on another one the word decides. -/
theorem prologueOfEveryWord : Obligations.PrologueOfEveryWord := by
  intro s u w hu
  refine ⟨fun hf => ⟨fun reg hd hr => ?_, runWord_dropped hu hf⟩, fun hf =>
    ⟨runWord_illegalCmd hu hf, runWord_illegalOperand hu hf, fun _ => runWord_of_decode⟩⟩
  obtain ⟨-, -, hanswer, -⟩ := rdregAnswersTheRegister.2 s u reg hu
  rw [runWord_of_decode hd]
  exact hanswer hf hr

/-! ### Which command raises which fault -/

theorem detlastIndex_error {s : State} {u : UnitState} {r : Raise} (h : detlastIndex s u = .error r) :
    r.cause ∈ [Cause.notInit, .unwrittenState] := by
  unfold detlastIndex at h
  split at h
  · cases h; simp
  · split at h
    · cases h; simp
    · cases h

section CostCauses

variable {s : State} {u : UnitState} {ctx0 : Ctx} {first last : Pos} {coef : Vector (BitVec 16) 16} {r : Raise}

theorem positionFault_cause {n : Pos} (h : positionFault s ctx0 first coef n = some r) :
    r.cause ∈ [Cause.unwrittenTable, .levelRange] := by
  unfold positionFault at h
  split at h
  · cases h; simp
  · split at h
    · cases h; simp
    · cases h

theorem endFault_cause (h : endFault s last coef = some r) : r.cause = .unwrittenTable := by
  unfold endFault at h
  split at h
  · cases h; rfl
  · cases h

theorem blockFault_cause (h : blockFault s ctx0 first last coef = some r) :
    r.cause ∈ [Cause.unwrittenTable, .levelRange] := by
  obtain h | ⟨-, h⟩ := Option.or_eq_some_iff.mp h
  · obtain ⟨n, -, hn⟩ := List.exists_of_findSome?_eq_some h
    exact positionFault_cause hn
  · simp [endFault_cause h]

theorem faultOr_eq_error {fault : Option Raise} {n : Nat} (h : faultOr fault n = .error r) : fault = some r := by
  cases fault with
  | none => cases h
  | some _ => exact congrArg some (Except.error.inj h)

theorem totalCost_error (h : totalCost s u ctx0 = .error r) : r.cause ∈ [Cause.unwrittenTable, .levelRange] := by
  cases hstart : startEntry s ctx0 (firstPosition u.first) with
  | none =>
    cases (totalCost_unwritten hstart).symm.trans h
    simp
  | some p0 =>
    obtain hlast | ⟨last, hlast⟩ := toInt_cases u.last
    · cases (totalCost_empty hstart hlast).symm.trans h
    · exact blockFault_cause (faultOr_eq_error ((totalCost_block hstart hlast).symm.trans h))

theorem costValue_error (h : costValue s u ctx0 = .error r) :
    r.cause ∈ [Cause.notInit, .unwrittenState, .unwrittenTable, .contractFirst, .levelRange] := by
  unfold costValue at h
  split_ifs at h
  · cases h; simp
  · cases h; simp
  · cases h; simp
  · split at h
    · cases h; simp
    · have hsub : [Cause.unwrittenTable, .levelRange] ⊆
          [.notInit, .unwrittenState, .unwrittenTable, .contractFirst, .levelRange] := by decide
      exact hsub (totalCost_error h)

end CostCauses

/-- The faults a command raises on a unit without one (60_exceptions.md R151). -/
inductive Raises (s : State) (u : UnitState) : Instr → Raise → Prop where
  | detlast {r : Raise} (h : detlastIndex s u = .error r) : Raises s u .detlast r
  | cost {ctx0 : Ctx} {r : Raise} (h : costValue s u ctx0 = .error r) : Raises s u (.cost ctx0) r
  | rdreg (reg : Reg) : Raises s u (.rdreg reg) ⟨.unwrittenState, 0⟩
  | ldprob (band : Band) (ctx : Ctx) (val : BitVec 8) : Raises s u (.ldprob band ctx val) ⟨.illegalOperand, 0⟩
  | ldcostt (band : Band) (ctx : Ctx) (level : Level) (val : BitVec 16) :
    Raises s u (.ldcostt band ctx level val) ⟨.illegalOperand, 0⟩

section Faulting

variable {s t : State} {u u' : UnitState} (hu : s.unit = some u) (hf : u.faulted = false)

include hu in
theorem faulted_of_setUnit_eq {v : UnitState} (ht : s.setUnit v = t) (hu' : t.unit = some u') :
    u'.faulted = v.faulted := by
  subst ht
  cases (unit_setUnit hu v).symm.trans hu'
  rfl

include hu in
/-- Of a write that leaves the units and its failure, the one after which the unit is another is the failure. -/
theorem eq_of_ite_write {p : Prop} [Decidable p] {written failed : State} (ht : (if p then written else failed) = t)
    (hw : written.unit = s.unit) (hu' : t.unit = some u') (hne : u'.faulted ≠ u.faulted) : t = failed := by
  split at ht
  · subst ht
    cases (hw.trans hu).symm.trans hu'
    exact absurd rfl hne
  · exact ht.symm

include hu hf

/-- A command that latched a fault did nothing else, and the fault is one it raises. -/
theorem exec_raises {i : Instr} (h : exec i s = .next t) (hu' : t.unit = some u') (hf' : u'.faulted = true) :
    ∃ r, Raises s u i r ∧ t = s.takeFault u (encode i) r := by
  have hne : u'.faulted ≠ u.faulted := by simp [hf, hf']
  cases i with
  | nop | clrcoef | ldcoef | setfirst =>
    obtain ⟨-, -, -, -, -, ⟨hsame, -⟩, -⟩ := blockCommandsFrame _ s t u u' (by simp) h hu hu'
    exact absurd hsame hne
  | init =>
    cases (exec_init_running hu hf).symm.trans h
    cases hu.symm.trans hu'
    exact absurd rfl hne
  | detlast =>
    have ht := Host.Outcome.next.inj ((detlast_running hu hf).symm.trans h)
    split at ht
    · exact ⟨_, .detlast ‹_›, ht.symm⟩
    · exact absurd (faulted_of_setUnit_eq hu ht hu') hne
  | cost ctx0 =>
    have ht := Host.Outcome.next.inj ((cost_running hu hf ctx0).symm.trans h)
    split at ht
    · exact ⟨_, .cost ‹_›, ht.symm⟩
    · exact absurd (faulted_of_setUnit_eq hu ht hu') hne
  | rdreg reg =>
    cases (exec_rdreg_running hu hf).symm.trans h
    cases hv : regValue s u reg with
    | none => exact ⟨_, .rdreg reg, answerReg_of_none hv _⟩
    | some v => exact absurd (faulted_of_setUnit_eq hu (answerReg_of_some hv _).symm hu') hne
  | ldprob band ctx val =>
    have ht := Host.Outcome.next.inj ((exec_ldprob_running hu hf band ctx val).symm.trans h)
    exact ⟨_, .ldprob band ctx val, eq_of_ite_write hu ht rfl hu' hne⟩
  | ldcostt band ctx level val =>
    have ht := Host.Outcome.next.inj ((exec_ldcostt_running hu hf band ctx level val).symm.trans h)
    exact ⟨_, .ldcostt band ctx level val, eq_of_ite_write hu ht rfl hu' hne⟩

/-- A word that latched a fault did nothing else; a command's own word is the one that was taken (log 11). -/
theorem runWord_raises {w : Word} (h : runWord w s = .next t) (hu' : t.unit = some u') (hf' : u'.faulted = true) :
    ∃ r, t = s.takeFault u w r := by
  obtain ⟨i, hd, hi⟩ | ⟨x, c, hx, hc⟩ := runWord_cases h
  · obtain ⟨r, -, ht⟩ := exec_raises hu hf hi hu' hf'
    obtain ⟨hw, -⟩ := commandWordIsUnique _ _ _ hd
    exact ⟨r, hw ▸ ht⟩
  · obtain rfl : x = u := Option.some.inj (hx.symm.trans hu)
    obtain ⟨hx, -⟩ | ⟨-, ht⟩ := hc
    · exact absurd hx (by simp [hf])
    · exact ⟨_, ht⟩

end Faulting

/-- Settles O38: the one way to a latched fault is `takeFault`, with a cause of 1..7 and a position of 0..15. -/
theorem faultsArePrecise : Obligations.FaultsArePrecise := by
  intro w s t u u' h hu hf hu' hf'
  obtain ⟨r, rfl⟩ := runWord_raises hu hf h hu' hf'
  obtain rfl : u.latch w r = u' := Option.some.inj ((unit_setUnit hu _).symm.trans hu')
  obtain ⟨hlo, hhi⟩ := causeCode_range r.cause
  refine ⟨rfl, hlo, hhi, ?_⟩
  rw [latch_fpos, BitVec.toNat_ofNat]
  omega

theorem toNat_causeCode_mem {c : Cause} {l : List Cause} (h : c ∈ l) :
    (causeCode c).toNat ∈ l.map fun c => (causeCode c).toNat := List.mem_map_of_mem h

/-- Settles O39: the latched cause is one of those the checks of the command can give. -/
theorem commandsRaiseOnlyTheirFaults : Obligations.CommandsRaiseOnlyTheirFaults := by
  intro i s t u u' h hu hf hu' hf'
  obtain ⟨r, hr, rfl⟩ := exec_raises hu hf h hu' hf'
  obtain rfl : u.latch (encode i) r = u' := Option.some.inj ((unit_setUnit hu _).symm.trans hu')
  cases hr with
  | detlast hr => exact .inl ⟨rfl, toNat_causeCode_mem (detlastIndex_error hr)⟩
  | cost hr => exact .inr (.inl ⟨⟨_, rfl⟩, toNat_causeCode_mem (costValue_error hr)⟩)
  | rdreg reg => exact .inr (.inr (.inl ⟨⟨reg, rfl⟩, rfl, rfl⟩))
  | ldprob band ctx val => exact .inr (.inr (.inr ⟨.inl ⟨band, ctx, val, rfl⟩, rfl, rfl⟩))
  | ldcostt band ctx level val => exact .inr (.inr (.inr ⟨.inr ⟨band, ctx, level, val, rfl⟩, rfl, rfl⟩))

/-! ### A fault stays -/

/-- Every faulted unit of `s` is in `t` with the registers it had; its port and responses may differ. -/
def State.KeepsFaulted (s t : State) : Prop :=
  ∀ (k : Nat) (u : UnitState), s.units[k]? = some u → u.faulted = true →
    ∃ u', t.units[k]? = some u' ∧ u'.registers = u.registers

theorem State.SameRegisters.exists_unit {s t : State} (h : s.SameRegisters t) {k : Nat} {u : UnitState}
    (hu : s.units[k]? = some u) : ∃ u', t.units[k]? = some u' ∧ u'.registers = u.registers := by
  have hk : t.units[k]?.map UnitState.registers = some u.registers := by
    rw [← List.getElem?_map, h.units, List.getElem?_map, hu, Option.map_some]
  exact Option.map_eq_some_iff.mp hk

theorem State.SameRegisters.keepsFaulted {s t : State} (h : s.SameRegisters t) : s.KeepsFaulted t :=
  fun _ _ hu _ => h.exists_unit hu

theorem State.SameRegisters.keepsFaulted_trans {s m t : State} (h : s.SameRegisters m) (hm : m.KeepsFaulted t) :
    s.KeepsFaulted t := by
  intro k u hu hf
  obtain ⟨v, hv, hvu⟩ := h.exists_unit hu
  obtain ⟨u', hu', huv⟩ := hm k v hv ((congrArg UnitState.faulted hvu :).trans hf)
  exact ⟨u', hu', huv.trans hvu⟩

/-- On a faulted unit a word at most makes a response (60_exceptions.md R155, R161). -/
theorem runWord_on_faulted {w : Word} {s t : State} {u : UnitState} (h : runWord w s = .next t)
    (hu : s.unit = some u) (hf : u.faulted = true) : t = s ∨ ∃ v, t = answered s u v := by
  obtain ⟨hfaulted, -⟩ := prologueOfEveryWord s u w hu
  obtain ⟨hanswer, hdrop⟩ := hfaulted hf
  by_cases hread : ∃ reg, decode s.cfg.numBands w = .command (.rdreg reg) ∧
      (regNumber reg).toNat ∈ [0, 4, 5, 7, 8, 9]
  · obtain ⟨reg, hd, hr⟩ := hread
    obtain ⟨v, -, ht⟩ := hanswer reg hd hr
    cases ht.symm.trans h
    exact .inr ⟨v, rfl⟩
  · cases (hdrop fun reg hd hr => hread ⟨reg, hd, hr⟩).symm.trans h
    exact .inl rfl

theorem runWord_keepsFaulted {w : Word} {s t : State} (h : runWord w s = .next t) : s.KeepsFaulted t := by
  intro k u hk hf
  by_cases hc : k = s.cur
  · subst hc
    obtain rfl | ⟨v, rfl⟩ := runWord_on_faulted h hk hf
    · exact ⟨u, hk, rfl⟩
    · exact ⟨_, unit_setUnit hk _, rfl⟩
  · obtain ⟨v, w', hv, he⟩ := runWord_effect h
    exact ⟨u, ((he.write hv).units_other hc).trans hk, rfl⟩

theorem serve_keepsFaulted {k : Nat} {s m t : State} (hm : s.SameRegisters m) (h : serve k m = .next t) :
    s.KeepsFaulted t := by
  obtain rfl | ⟨u, w, ws, hu, -, hw⟩ := serve_cases h
  · exact hm.keepsFaulted
  · exact (hm.accept hu ws).keepsFaulted_trans (runWord_keepsFaulted hw)

/-- A step is followed down to its raw word: `StepResult` no longer tells whether the word met a faulted unit. -/
theorem step_keepsFaulted {s t : State} (h : step s = .next t) (hr : ¬ s.resetsNext) : s.KeepsFaulted t := by
  have hs : s.SameRegisters s := ⟨rfl, rfl, rfl, rfl, rfl, rfl, rfl⟩
  obtain ⟨-, rfl | ⟨k, hk⟩ | ⟨k, hk⟩⟩ | ⟨e, es, he, hh⟩ := advance_cases h
  · exact hs.keepsFaulted
  · exact serve_keepsFaulted hs hk
  · exact serve_keepsFaulted (m := { s with draws := s.draws + 1 }) { hs with } hk
  · cases e with
    | grant k => exact serve_keepsFaulted (m := { s with events := es }) { hs with } hh
    | present | drain =>
      cases hh
      exact State.SameRegisters.keepsFaulted { hs with units := map_registers_modify _ _ fun _ => rfl }
    | driveCap =>
      cases hh
      exact State.SameRegisters.keepsFaulted { hs with }
    | reset busy => exact absurd ⟨busy, es, he⟩ hr

theorem same_of_registers_eq {u v : UnitState} (h : v.registers = u.registers) :
    u.sameFault v ∧ u.sameCoefs v ∧ u.sameFirst v ∧ u.sameLast v ∧ u.sameResult v := by
  simp only [UnitState.registers, UnitState.mk.injEq] at h
  obtain ⟨hcoef, hcoefV, hfirst, hfirstV, hlast, hlastV, hresult, hresultV, hfaulted, hcause, hpos, hinfo, -⟩ := h
  exact ⟨⟨hfaulted, hcause, hpos, hinfo⟩, ⟨hcoef, hcoefV⟩, ⟨hfirst, hfirstV⟩, ⟨hlast, hlastV⟩, hresult, hresultV⟩

/-- Settles O41: a step other than reset keeps a faulted unit's registers, and after reset nothing has a value (O49). -/
theorem faultIsSticky : Obligations.FaultIsSticky := by
  intro s t k u h hu hf
  by_cases hr : s.resetsNext
  · obtain ⟨busy, es, he⟩ := hr
    obtain ⟨t', ht', hnone, -, hlen⟩ := resetLeavesNoValue.2 s busy es he
    cases ht'.symm.trans h
    have hk : k < t.units.length := hlen ▸ (List.getElem?_eq_some_iff.mp hu).1
    exact ⟨t.units[k], List.getElem?_eq_getElem hk, fun hno => absurd ⟨busy, es, he⟩ hno, fun _ => hnone⟩
  · obtain ⟨u', hu', heq⟩ := step_keepsFaulted h hr k u hu hf
    exact ⟨u', hu', fun _ => same_of_registers_eq heq, fun hyes => absurd hyes hr⟩

end Sys2Proof.Machine
end

section
/-! PROOFS. Waiting words with no event pending: which unit is served, and how many words wait before and after
(20_memory.md R52; 60_exceptions.md R155, R174; 70_reset_and_hazards.md R197). -/

namespace Sys2Proof.Machine

/-! ### The units that wait -/

theorem mem_waiting {s : State} {k : Nat} : k ∈ s.waiting ↔ ∃ u, s.units[k]? = some u ∧ u.port ≠ [] := by
  simp only [State.waiting, List.mem_filter, List.mem_range]
  cases hu : s.units[k]? with
  | none => simp
  | some u => simp [(List.getElem?_eq_some_iff.mp hu).1]

theorem waiting_eq_nil_iff {s : State} : s.waiting = [] ↔ s.waitingWords = 0 := by
  rw [List.eq_nil_iff_forall_not_mem, State.waitingWords, List.sum_eq_zero_iff_forall_eq_nat, List.forall_mem_map]
  constructor
  · intro h u hu
    obtain ⟨k, hk⟩ := List.mem_iff_getElem?.mp hu
    by_contra hp
    exact h k (mem_waiting.mpr ⟨u, hk, mt List.length_eq_zero_iff.mpr hp⟩)
  · intro h k hk
    obtain ⟨u, hu, hp⟩ := mem_waiting.mp hk
    exact hp (List.length_eq_zero_iff.mp (h u (List.mem_of_getElem? hu)))

/-- With units waiting, one of them is served: the only one, or one of several by a free choice that is counted. -/
theorem serveWaiting_of_waiting {s : State} (h : s.waiting ≠ []) :
    ∃ k draws, k ∈ s.waiting ∧ serveWaiting s = serve k { s with draws := draws } ∧
      (s.waiting = [k] ∧ draws = s.draws ∨ 2 ≤ s.waiting.length ∧ draws = s.draws + 1) := by
  unfold serveWaiting
  match hw : s.waiting with
  | [] => exact absurd hw h
  | [k] => exact ⟨k, s.draws, List.mem_singleton_self k, rfl, .inl ⟨rfl, rfl⟩⟩
  | k :: j :: ks =>
    refine ⟨_, _, ?_, rfl, .inr ⟨by simp, rfl⟩⟩
    have hlt : Config.arbiter s.draws % (k :: j :: ks).length < (k :: j :: ks).length :=
      Nat.mod_lt _ (by simp)
    rw [List.getElem?_eq_getElem hlt]
    exact List.getElem_mem hlt

/-! ### How many words wait -/

theorem sum_port_length_set {l : List UnitState} {k : Nat} {u : UnitState} (h : l[k]? = some u) (v : UnitState) :
    ((l.set k v).map (fun x => x.port.length)).sum + u.port.length =
      (l.map (fun x => x.port.length)).sum + v.port.length := by
  induction l generalizing k with
  | nil => simp at h
  | cons x xs ih =>
    cases k with
    | zero =>
      cases h
      simp only [List.set_cons_zero, List.map_cons, List.sum_cons]
      omega
    | succ k =>
      have := ih h
      simp only [List.set_cons_succ, List.map_cons, List.sum_cons]
      omega

theorem waitingWords_accept {s : State} {k : Nat} {u : UnitState} {w : Word} {ws : List Word}
    (hu : s.units[k]? = some u) (hp : u.port = w :: ws) : (s.accept k u ws).waitingWords + 1 = s.waitingWords := by
  have h : (s.accept k u ws).waitingWords + u.port.length = s.waitingWords + ws.length :=
    sum_port_length_set hu { u with port := ws }
  rw [hp, List.length_cons] at h
  omega

theorem waitingWords_setUnit {s : State} {u v : UnitState} (hu : s.unit = some u) (hp : v.port = u.port) :
    (s.setUnit v).waitingWords = s.waitingWords :=
  Nat.add_right_cancel ((sum_port_length_set hu v).trans (by rw [hp]; rfl))

/-- A command leaves the ports alone: its word was taken before it ran. -/
theorem Effect.waitingWords {s t : State} {u : UnitState} {w : Word} (hu : s.unit = some u) (h : Effect s u w t) :
    t.waitingWords = s.waitingWords := by
  cases h with
  | nothing h | strategy h | prob _ _ _ _ h | costt _ _ _ _ _ h => exact h ▸ rfl
  | fault _ h | clear h | coef _ _ h | first _ h | scan _ _ h | cost _ _ _ h | answer _ h =>
    exact h ▸ waitingWords_setUnit hu rfl

theorem runWord_waitingWords {w : Word} {s t : State} (h : runWord w s = .next t) :
    t.waitingWords = s.waitingWords := by
  obtain ⟨u, w', hu, he⟩ := runWord_effect h
  exact he.waitingWords hu

/-! ### A step with no event pending -/

theorem step_of_no_event {s : State} (he : s.events = []) : step s = serveWaiting s := by
  simp only [step, advance, he]

/-- The step takes a unit's head word, and `draws` counts the choice when there was one to make. -/
theorem step_takes_waiting_word {s : State} (he : s.events = []) (hw : 0 < s.waitingWords) :
    ∃ (k : Nat) (u : UnitState) (w : Word) (ws : List Word) (draws : Nat),
      s.units[k]? = some u ∧ u.port = w :: ws ∧
      step s = runWord w (({ s with draws := draws } : State).accept k u ws) ∧
      (s.waiting = [k] ∧ draws = s.draws ∨ 2 ≤ s.waiting.length ∧ draws = s.draws + 1) := by
  obtain ⟨k, draws, hk, hserve, hdraws⟩ := serveWaiting_of_waiting (mt waiting_eq_nil_iff.mp hw.ne')
  obtain ⟨u, hu, hne⟩ := mem_waiting.mp hk
  obtain ⟨w, ws, hp⟩ := List.exists_cons_of_ne_nil hne
  have hstep : step s = serve k { s with draws := draws } := (step_of_no_event he).trans hserve
  exact ⟨k, u, w, ws, draws, hu, hp, hstep.trans (serve_of_port hu hp), hdraws⟩

/-- Settles O45: a served unit's word is taken off its port and runs, and running it leaves the ports alone. -/
theorem waitingWordsAreTaken : Obligations.WaitingWordsAreTaken := by
  intro s he
  refine ⟨fun hw => ?_, fun hw => ?_, fun hw => ?_⟩
  · rw [step_of_no_event he, serveWaiting, waiting_eq_nil_iff.mpr hw]
  · obtain ⟨k, u, w, ws, draws, hu, hp, hstep, -⟩ := step_takes_waiting_word he hw
    obtain ⟨t, ht⟩ := runWord_total w (unit_accept (s := { s with draws := draws }) hu ws)
    refine ⟨t, hstep.trans ht, ?_⟩
    rw [runWord_waitingWords ht]
    exact waitingWords_accept (s := { s with draws := draws }) hu hp
  · obtain ⟨k, u, w, ws, draws, hu, hp, hstep, hdraws⟩ := step_takes_waiting_word he hw
    refine ⟨k, u, w, ws, draws, hu, hp, hstep, fun halone => ?_, ?_⟩
    · obtain ⟨-, hd⟩ | ⟨hlen, -⟩ := hdraws
      · exact hd
      · rw [waiting_eq_singleton hu hp halone] at hlen
        exact absurd hlen (Nat.not_succ_le_self 1)
    · rintro ⟨j, v, hv, hj, hne⟩
      obtain ⟨honly, -⟩ | ⟨-, hd⟩ := hdraws
      · have hmem : j ∈ s.waiting := mem_waiting.mpr ⟨v, hv, hne⟩
        rw [honly] at hmem
        exact absurd (List.mem_singleton.mp hmem) hj
      · exact hd

end Sys2Proof.Machine
end

section
/-! PROOFS. The listed words of the encoding vectors (95_test_vectors.md section 2.1): a legal word is checked by encoding
its command, an illegal one by what its row or its reserved opcode decodes to. -/

namespace Sys2Proof.Machine

theorem decode_of_encode_eq {nb : Nat} {i : Instr} {w : Word} (hword : encode i = w) (hwf : i.wf nb = true) :
    decode nb w = .command i :=
  hword ▸ decodeOfEncodeIsTheCommand nb i hwf

/-- Settles O9: each legal word is the encoding of its well-formed command; 0xFFFFFFFF has the reserved opcode 0xF, and
0x98000000 is `LDCOSTT` with band 4, out of range for four bands. -/
theorem listedWordsDecode : Obligations.ListedWordsDecode := by
  have reserved : decode 8 (0xF#4 ++ 0xFFFFFFF#28) = .illegalCmd := decode_reserved 8 _ (by decide)
  have band : decode 4 (0x9#4 ++ 4#3 ++ 0#2 ++ 0#7 ++ 0#16) = .illegalOperand := decode_ldcostt 4 4 0 0 0
  refine ⟨?_, ?_, ?_, ?_, ?_, ?_, ?_, ?_, ?_, ?_, reserved, band⟩
  all_goals exact decode_of_encode_eq rfl rfl

end Sys2Proof.Machine
end
